-- ==== Sys2Proof/Word.lean ====
section
/-! DEFINITION. Sys2Proof/Word.lean: the word types of the block and the small closed enumerations its operands and
registers are drawn from (spec/00_scope.md R8, R9; 10_state.md R24, R31, R32; 30_encoding.md R104). -/

namespace Sys2Proof

/-- A Debug RAM word, a platform constant or a target-core address: 32 bits (R8, R50). -/
abbrev Word := BitVec 32

/-- A debug-bus address operand or the cached address: 16 bits (R8, R105). -/
abbrev DbusAddr := BitVec 16

/-- The data payload of a debug-bus request or response: 34 bits (R8, R93). -/
abbrev DbusData := BitVec 34

/-- The four wire operations, the `op` field of a request (R104). -/
inductive WireOp where
  | nop
  | read
  | write
  | conditionalWrite
  deriving DecidableEq, Repr, Inhabited

/-- The four result codes, the `result` field of a response (R104). -/
inductive ResultCode where
  | success
  | noWrite
  | failed
  | busy
  deriving DecidableEq, Repr, Inhabited

/-- The two data registers the scan port can select (R41, R91). -/
inductive DataReg where
  | dtminfo
  | dbus
  deriving DecidableEq, Repr, Inhabited

/-- The three hooks of the chip glue (R42). -/
inductive HookName where
  | onReset
  | preHalt
  | postReset
  deriving DecidableEq, Repr, Inhabited

end Sys2Proof
end

