-- ==== Sys2Proof/Config.lean ====
section
/-! DEFINITION. Sys2Proof/Config.lean: the construction parameters of a block instance (spec/00_scope.md R7), the shape of
what the environment supplies (scan answers, R41; hook behaviour, R238), and the free values, opaque constants with no body.
The parameters are plain data carried by State.params, so that every statement holds for every parameter (log 5). -/

namespace Sys2Proof

/-- The encoder of the staged jump (R103, D23): the default, or another platform's, known by a number only. -/
inductive JumpEncoder where
  | jalX0
  | platform (id : Nat)
  deriving DecidableEq, Repr, Inhabited

/-- `PROBE[0..4]` (R7, D26). -/
structure Probe where
  w0 : Word
  w1 : Word
  w2 : Word
  w3 : Word
  w4 : Word
  deriving DecidableEq, Repr, Inhabited

/-- The parameters fixed when a block instance is made (R7). -/
structure Params where
  /-- `IR_LEN` (D4). -/
  irLen : Nat
  /-- `IR_DTMINFO` (D4). -/
  irDtminfo : Nat
  /-- `IR_DBUS` (D4). -/
  irDbus : Nat
  /-- `DTMINFO_ADDRBITS_LSB` (D5). -/
  dtminfoAddrbitsLsb : Nat
  /-- `DTMINFO_ADDRBITS_WIDTH` (D5). -/
  dtminfoAddrbitsWidth : Nat
  /-- `CTRL_ADDR` (D15). -/
  ctrlAddr : DbusAddr
  /-- `INFO_ADDR` (D15). -/
  infoAddr : DbusAddr
  /-- `INFO_SIZE_LSB` (D17). -/
  infoSizeLsb : Nat
  /-- `INFO_AUTH_LSB` (D17). -/
  infoAuthLsb : Nat
  /-- `SCRATCH_BASE` (D23). -/
  scratchBase : Word
  /-- `RESUME_VECTOR` (D23). -/
  resumeVector : Word
  /-- `encode_jump` (D23). -/
  jumpEncoder : JumpEncoder
  /-- `PROBE[0..4]` (D26). -/
  probe : Probe
  /-- `HALT_INSN` (D30). -/
  haltInsn : Word
  /-- `MAX_RETRIES` (D10). -/
  maxRetries : Nat
  /-- `OP_TIMEOUT` (D11): a time, or none. -/
  opTimeout : Option Nat
  /-- `SCRATCH_MIRROR_CAPACITY` (D27). -/
  mirrorCapacity : Nat
  /-- `on_reset_hook` is present (R42). -/
  onResetHook : Bool
  /-- `pre_halt_hook` is present (R42). -/
  preHaltHook : Bool
  /-- `post_reset_hook` is present (R42). -/
  postResetHook : Bool
  deriving DecidableEq, Repr

/-- Whether a hook is present; an absent hook is a no-op (R42). -/
def Params.hasHook (p : Params) : HookName → Bool
  | .onReset => p.onResetHook
  | .preHalt => p.preHaltHook
  | .postReset => p.postResetHook

/-- What the Scan Primitive answers to one flush (R41): the queue could not execute, or the vector shifted in by the data
scan of the batch. `late` is the optional environment input of D11: the operation's time had run out by then (log 17). -/
inductive Answer where
  | err
  | ok (bits : Nat) (late : Bool)
  deriving DecidableEq, Repr, Inhabited

/-- The timeout input that comes with an answer (D11, log 17). -/
def Answer.late : Answer → Bool
  | .err => false
  | .ok _ late => late

/-- The commands a hook may issue (R238); the lifecycle commands have no constructor here ("no reentrancy"). -/
inductive HookCmd where
  | scan (op : WireOp) (address : DbusAddr) (dataOut : DbusData)
  | read (address : DbusAddr)
  | write (address : DbusAddr) (value : DbusData)
  | readWord (index : Word)
  | writeWord (index value : Word) (setInterrupt : Bool)
  | verifyWord (index expected : Word)
  | writeResumeJump (index : Word) (setInterrupt : Bool)
  deriving DecidableEq, Repr, Inhabited

/-- One command of a hook, and whether the hook hands a refusal of it on to its caller or goes on (log 4). -/
structure HookStep where
  cmd : HookCmd
  handOnRefusal : Bool
  deriving DecidableEq, Repr, Inhabited

/-- Free value: the answer to the n-th flush for which the input list holds none (D1, log 3). -/
opaque Config.freeAnswer : Nat → Answer

/-- Free value: what the n-th hook call does, where the input list holds nothing (R238, log 4). -/
opaque Config.freeHookScript : Nat → List HookStep

/-- Free value: word i of the mirror that the n-th draw leaves after `attach` or `detach` (R54, log 7). -/
opaque Config.freeMirrorWord : Nat → Nat → Word

/-- Implementation constant: `MAX_RETRIES` of the instance in its power-on state; the spec gives no default (D10, log 5). -/
opaque Config.maxRetries : Nat

/-- Implementation constant: the word a platform's own jump encoder makes of an offset (D23, log 5). -/
opaque Config.platformJumpWord : Nat → Int → Word

/-- The parameters with the defaults of R7 (PRESUMED: each is marked general knowledge in the spec; log 5). -/
def defaultParams : Params where
  irLen := 5
  irDtminfo := 0x10
  irDbus := 0x11
  dtminfoAddrbitsLsb := 4
  dtminfoAddrbitsWidth := 4
  ctrlAddr := 0x10#16
  infoAddr := 0x11#16
  infoSizeLsb := 10
  infoAuthLsb := 2
  scratchBase := 0x400#32
  resumeVector := 0x804#32
  jumpEncoder := .jalX0
  probe := ⟨0xfff04493#32, 0x01f4d493#32, 0x40902023#32, 0x01f4d493#32, 0x40902223#32⟩
  haltInsn := 0x7b046073#32
  maxRetries := Config.maxRetries
  opTimeout := none
  mirrorCapacity := 64
  onResetHook := false
  preHaltHook := false
  postResetHook := false

end Sys2Proof
end

