-- ==== Sys2Proof/Syntax.lean ====
section
/-! DEFINITION. Sys2Proof/Syntax.lean: the instructions of the block, one constructor per row of spec/opcode_table.json
(00_scope.md R2): four wire operations, four result codes, two selectors, sixteen commands, and the staged jump word. -/

namespace Sys2Proof

/-- One row of the opcode table with its operands at the widths the spec gives them (R93, R94, R105, R103). -/
inductive Instr where
  /-- `NOP`, op 0 of a request (R131). -/
  | dbusNop (address : DbusAddr) (data : DbusData)
  /-- `READ`, op 1 of a request (R132). -/
  | dbusRead (address : DbusAddr) (data : DbusData)
  /-- `WRITE`, op 2 of a request (R133). -/
  | dbusWrite (address : DbusAddr) (data : DbusData)
  /-- `CONDITIONAL_WRITE`, op 3 of a request (R134). -/
  | dbusConditionalWrite (address : DbusAddr) (data : DbusData)
  /-- `SUCCESS`, result 0 of a response (R136); the address field is the one the block ignores. -/
  | rspSuccess (address : DbusAddr) (data : DbusData)
  /-- `NO_WRITE`, result 1 of a response (R137). -/
  | rspNoWrite (address : DbusAddr) (data : DbusData)
  /-- `FAILED`, result 2 of a response (R138). -/
  | rspFailed (address : DbusAddr) (data : DbusData)
  /-- `BUSY`, result 3 of a response (R139). -/
  | rspBusy (address : DbusAddr) (data : DbusData)
  /-- `SELECT_DTMINFO` (R120). -/
  | selectDtminfo
  /-- `SELECT_DBUS` (R121). -/
  | selectDbus
  /-- `attach()`, command 0 (R190). -/
  | attach
  /-- `detach()`, command 1 (R191). -/
  | detach
  /-- `read_dtm_info()`, command 2 (R122). -/
  | readDtmInfo
  /-- `scan(op, address, data_out)`, command 3 (R150). -/
  | scan (op : WireOp) (address : DbusAddr) (dataOut : DbusData)
  /-- `read(address)`, command 4 (R153). -/
  | read (address : DbusAddr)
  /-- `write(address, value)`, command 5 (R155). -/
  | write (address : DbusAddr) (value : DbusData)
  /-- `read_word(index)`, command 6 (R172). -/
  | readWord (index : Word)
  /-- `write_word(index, value, set_interrupt)`, command 7 (R174). -/
  | writeWord (index value : Word) (setInterrupt : Bool)
  /-- `verify_word(index, expected)`, command 8 (R176). -/
  | verifyWord (index expected : Word)
  /-- `write_resume_jump(index, set_interrupt)`, command 9 (R178). -/
  | writeResumeJump (index : Word) (setInterrupt : Bool)
  /-- `examine()`, command 10 (R193). -/
  | examine
  /-- `poll()`, command 11 (R195). -/
  | poll
  /-- `halt()`, command 12 (R200). -/
  | halt
  /-- `assert_reset()`, command 13 (R201). -/
  | assertReset
  /-- `deassert_reset()`, command 14 (R202). -/
  | deassertReset
  /-- `device_reset()`, command 15 (R203). -/
  | deviceReset
  /-- `JUMP_WORD`, the relative jump staged in Debug RAM, with its 21-bit offset image (R103). -/
  | jumpWord (imm : BitVec 21)
  deriving DecidableEq, Repr, Inhabited

end Sys2Proof
end

