-- ==== Sys2Proof/WellFormed.lean ====
section
/-! DEFINITION. Sys2Proof/WellFormed.lean: which instruction terms have an encoding, and which parameter sets the spec allows.
Operand widths are carried by the types, so the one check on an instruction is the parity of a jump offset. -/

namespace Sys2Proof

/-- An instruction the encodings of R90 can carry: the jump offset is even, its bit 0 "is not encoded" (R103). -/
def Instr.wellFormed : Instr → Bool
  | .jumpWord imm => !imm.getLsbD 0
  | .dbusNop _ _ | .dbusRead _ _ | .dbusWrite _ _ | .dbusConditionalWrite _ _ => true
  | .rspSuccess _ _ | .rspNoWrite _ _ | .rspFailed _ _ | .rspBusy _ _ => true
  | .selectDtminfo | .selectDbus => true
  | .attach | .detach | .readDtmInfo | .scan _ _ _ | .read _ | .write _ _ => true
  | .readWord _ | .writeWord _ _ _ | .verifyWord _ _ | .writeResumeJump _ _ => true
  | .examine | .poll | .halt | .assertReset | .deassertReset | .deviceReset => true

/-- The constraints the spec puts on the parameters: the two selectors differ and fit (D4), each field lies inside its
register (R7, R100). -/
def Params.wellFormed (p : Params) : Bool :=
  decide (p.irDtminfo ≠ p.irDbus) && decide (p.irDtminfo < 2 ^ p.irLen) && decide (p.irDbus < 2 ^ p.irLen) &&
  decide (p.dtminfoAddrbitsLsb + p.dtminfoAddrbitsWidth ≤ 32) &&
  decide (p.infoSizeLsb + 6 ≤ 34) && decide (p.infoAuthLsb + 2 ≤ 34)

end Sys2Proof
end

