-- ==== Sys2Proof/Decode.lean ====
section
/-! DEFINITION. Sys2Proof/Decode.lean: from the bits of a port word to an instruction, and back (spec/30_encoding.md R90 to R105,
spec/opcode_table.json). The request and the response of the debug bus share one layout (R94), and command codes share values
with both, so a word carries the format it is in: which port it stands on and in which direction (log 13). -/

namespace Sys2Proof

/-- The formats of R90 that hold a row of the opcode table. -/
inductive Format where
  | irsel
  | dbusReq
  | dbusRsp
  | jump
  | cmd
  deriving DecidableEq, Repr

/-- A word as it stands on a port: its format and its bits as a number, bit 0 least significant (R9). -/
structure PortWord where
  fmt : Format
  val : Nat
  deriving DecidableEq, Repr

/-- Why a word is no instruction (R106). -/
inductive DecodeError where
  /-- An instruction-register value that is neither selector (R106 item 4). -/
  | unknownSelector (v : Nat)
  /-- Command codes 16 to 31 (R105, R106 item 7). -/
  | unassignedCommand (code : Nat)
  /-- A word of the jump format without rd = x0 and opcode 0x6F (R103). -/
  | notJump (v : Nat)
  /-- Bits set above the last bit of the format (R93, R103, R105). -/
  | strayBits (fmt : Format)
  deriving DecidableEq, Repr

/-! ### Wire operations and result codes (R104) -/

def WireOp.code : WireOp → Nat
  | .nop => 0
  | .read => 1
  | .write => 2
  | .conditionalWrite => 3

def WireOp.ofCode : Nat → WireOp
  | 0 => .nop
  | 1 => .read
  | 2 => .write
  | _ => .conditionalWrite

def ResultCode.code : ResultCode → Nat
  | .success => 0
  | .noWrite => 1
  | .failed => 2
  | .busy => 3

def ResultCode.ofCode : Nat → ResultCode
  | 0 => .success
  | 1 => .noWrite
  | 2 => .failed
  | _ => .busy

/-! ### The debug-bus vectors (R93 to R97) -/

/-- `assemble(op, address, data) = (address << 36) | (data << 2) | op` (R96). -/
def assemble (op : WireOp) (address : DbusAddr) (data : DbusData) : Nat :=
  (address.toNat <<< 36) ||| (data.toNat <<< 2) ||| op.code

/-- A response vector with the given fields, in the same layout (R94). -/
def response (result : ResultCode) (address : DbusAddr) (data : DbusData) : Nat :=
  (address.toNat <<< 36) ||| (data.toNat <<< 2) ||| result.code

/-- Bits `[1:0]` of a vector, the `op` or `result` field (R93, R97). -/
def lowField (v : Nat) : Nat := v % 4

/-- Bits `[35:2]` of a vector, the data field (R93, R97). -/
def dataField (v : Nat) : DbusData := BitVec.ofNat 34 (v >>> 2)

/-- Bits `[51:36]` of a vector, the address field at its greatest width (R93, R95). -/
def addressField (v : Nat) : DbusAddr := BitVec.ofNat 16 (v >>> 36)

/-- The result code of a response (R97). -/
def responseCode (v : Nat) : ResultCode := ResultCode.ofCode (lowField v)

/-! ### The jump word (R103) -/

/-- `imm[20] ++ imm[10:1] ++ imm[11] ++ imm[19:12] ++ 00000 ++ 1101111` (R103). -/
def jumpBits (imm : BitVec 21) : Word :=
  (imm.extractLsb' 20 1 ++ imm.extractLsb' 1 10 ++ imm.extractLsb' 11 1 ++ imm.extractLsb' 12 8 ++
    0b00000#5 ++ 0b1101111#7 : BitVec (1 + 10 + 1 + 8 + 5 + 7))

/-- The offset image a jump word carries, bit 0 being 0 (R103). -/
def jumpImm (w : Word) : BitVec 21 :=
  (w.extractLsb' 31 1 ++ w.extractLsb' 12 8 ++ w.extractLsb' 20 1 ++ w.extractLsb' 21 10 ++ 0#1 :
    BitVec (1 + 8 + 1 + 10 + 1))

/-! ### Decoding -/

/-- `IRSEL` (R91). -/
def decodeSelector (p : Params) (v : Nat) : Except DecodeError Instr :=
  if v = p.irDtminfo then .ok .selectDtminfo
  else if v = p.irDbus then .ok .selectDbus
  else .error (.unknownSelector v)

/-- `DBUS_REQ` (R93). A word that stands alone is read at the greatest length of R95, 52 bits, whatever `address_bits` is (log 33,
DESIGN CHOICE). -/
def decodeRequest (v : Nat) : Except DecodeError Instr :=
  if 2 ^ 52 ≤ v then .error (.strayBits .dbusReq)
  else match WireOp.ofCode (lowField v) with
    | .nop => .ok (.dbusNop (addressField v) (dataField v))
    | .read => .ok (.dbusRead (addressField v) (dataField v))
    | .write => .ok (.dbusWrite (addressField v) (dataField v))
    | .conditionalWrite => .ok (.dbusConditionalWrite (addressField v) (dataField v))

/-- `DBUS_RSP` (R94). A word that stands alone is read at the greatest length of R95, 52 bits, whatever `address_bits` is: bits above
the session's length fall into the address operand, which no meaning reads (R97; log 33, DESIGN CHOICE). -/
def decodeResponse (v : Nat) : Except DecodeError Instr :=
  if 2 ^ 52 ≤ v then .error (.strayBits .dbusRsp)
  else match responseCode v with
    | .success => .ok (.rspSuccess (addressField v) (dataField v))
    | .noWrite => .ok (.rspNoWrite (addressField v) (dataField v))
    | .failed => .ok (.rspFailed (addressField v) (dataField v))
    | .busy => .ok (.rspBusy (addressField v) (dataField v))

/-- `JUMP` (R103), the default encoder's layout whatever `jumpEncoder` is: D23 leaves another platform's open (log 34, DESIGN
CHOICE). -/
def decodeJump (v : Nat) : Except DecodeError Instr :=
  if 2 ^ 32 ≤ v then .error (.strayBits .jump)
  else if v % 4096 = 0x6F then .ok (.jumpWord (jumpImm (BitVec.ofNat 32 v)))
  else .error (.notJump v)

/-- A command whose operands fill `width` bits above the code (R105). -/
def operands (width rest : Nat) (i : Instr) : Except DecodeError Instr :=
  if rest < 2 ^ width then .ok i else .error (.strayBits .cmd)

/-- `CMD`: the code in bits `[4:0]` (R105); the operands stand above it in the order of R105, each at its width, the first
lowest (log 12: the spec says only that they "travel beside the code"). -/
def decodeCommand (v : Nat) : Except DecodeError Instr :=
  let rest := v >>> 5
  match v % 32 with
  | 0 => operands 0 rest .attach
  | 1 => operands 0 rest .detach
  | 2 => operands 0 rest .readDtmInfo
  | 3 => operands 52 rest
      (.scan (WireOp.ofCode (rest % 4)) (BitVec.ofNat 16 (rest >>> 2)) (BitVec.ofNat 34 (rest >>> 18)))
  | 4 => operands 16 rest (.read (BitVec.ofNat 16 rest))
  | 5 => operands 50 rest (.write (BitVec.ofNat 16 rest) (BitVec.ofNat 34 (rest >>> 16)))
  | 6 => operands 32 rest (.readWord (BitVec.ofNat 32 rest))
  | 7 => operands 65 rest
      (.writeWord (BitVec.ofNat 32 rest) (BitVec.ofNat 32 (rest >>> 32)) (rest.testBit 64))
  | 8 => operands 64 rest (.verifyWord (BitVec.ofNat 32 rest) (BitVec.ofNat 32 (rest >>> 32)))
  | 9 => operands 33 rest (.writeResumeJump (BitVec.ofNat 32 rest) (rest.testBit 32))
  | 10 => operands 0 rest .examine
  | 11 => operands 0 rest .poll
  | 12 => operands 0 rest .halt
  | 13 => operands 0 rest .assertReset
  | 14 => operands 0 rest .deassertReset
  | 15 => operands 0 rest .deviceReset
  | code => .error (.unassignedCommand code)

/-- The instruction a port word stands for, or why it is none. Total. -/
def decode (p : Params) (w : PortWord) : Except DecodeError Instr :=
  match w.fmt with
  | .irsel => decodeSelector p w.val
  | .dbusReq => decodeRequest w.val
  | .dbusRsp => decodeResponse w.val
  | .jump => decodeJump w.val
  | .cmd => decodeCommand w.val

/-! ### Encoding -/

/-- The number of a command with its operand bits above the code (R105, log 12). -/
def commandWord (code rest : Nat) : PortWord := ⟨.cmd, (rest <<< 5) ||| code⟩

/-- The port word of an instruction; a debug-bus word with its address at full width (log 33), a jump word in the layout of R103
whatever `jumpEncoder` is (log 34). -/
def encode (p : Params) : Instr → PortWord
  | .dbusNop a d => ⟨.dbusReq, assemble .nop a d⟩
  | .dbusRead a d => ⟨.dbusReq, assemble .read a d⟩
  | .dbusWrite a d => ⟨.dbusReq, assemble .write a d⟩
  | .dbusConditionalWrite a d => ⟨.dbusReq, assemble .conditionalWrite a d⟩
  | .rspSuccess a d => ⟨.dbusRsp, response .success a d⟩
  | .rspNoWrite a d => ⟨.dbusRsp, response .noWrite a d⟩
  | .rspFailed a d => ⟨.dbusRsp, response .failed a d⟩
  | .rspBusy a d => ⟨.dbusRsp, response .busy a d⟩
  | .selectDtminfo => ⟨.irsel, p.irDtminfo⟩
  | .selectDbus => ⟨.irsel, p.irDbus⟩
  | .attach => commandWord 0 0
  | .detach => commandWord 1 0
  | .readDtmInfo => commandWord 2 0
  | .scan op a d => commandWord 3 ((d.toNat <<< 18) ||| (a.toNat <<< 2) ||| op.code)
  | .read a => commandWord 4 a.toNat
  | .write a v => commandWord 5 ((v.toNat <<< 16) ||| a.toNat)
  | .readWord i => commandWord 6 i.toNat
  | .writeWord i v f => commandWord 7 ((f.toNat <<< 64) ||| (v.toNat <<< 32) ||| i.toNat)
  | .verifyWord i e => commandWord 8 ((e.toNat <<< 32) ||| i.toNat)
  | .writeResumeJump i f => commandWord 9 ((f.toNat <<< 32) ||| i.toNat)
  | .examine => commandWord 10 0
  | .poll => commandWord 11 0
  | .halt => commandWord 12 0
  | .assertReset => commandWord 13 0
  | .deassertReset => commandWord 14 0
  | .deviceReset => commandWord 15 0
  | .jumpWord imm => ⟨.jump, (jumpBits imm).toNat⟩

/-! ### Words as spec/opcode_table.json numbers them -/

/-- The port word for `nbits` bits `w` of the opcode table, which names no format (log 13): more than 32 bits is a debug-bus
request; otherwise the jump pattern of R103; otherwise a 5-bit code, 16 and up on the instruction-register scan, below 16 on
the command port. The table gives a response the very bits of a request, so no word is read as a response here. -/
def tableWord (nbits w : Nat) : PortWord :=
  if 32 < nbits then ⟨.dbusReq, w⟩
  else if w % 4096 = 0x6F then ⟨.jump, w⟩
  else if 16 ≤ w % 32 then ⟨.irsel, w⟩
  else ⟨.cmd, w⟩

/-- What the decoder gives for a row of spec/opcode_table.json, with the default parameters of R7. -/
def decodeTableWord (nbits w : Nat) : Option Instr :=
  match decode defaultParams (tableWord nbits w) with
  | .ok i => some i
  | .error _ => none

end Sys2Proof
end

