-- ==== Sys2Proof/Machine/State.lean ====
section
/-! DEFINITION. Sys2Proof/Machine/State.lean: the machine's state as plain data (spec/10_state.md), what its steps can end in, and
the state after power-on (R54). Each field's docstring names its rule; INVENTORY.md lists them with their reset values. -/

namespace Sys2Proof.Machine

/-- The values of `last_op` (R24). -/
inductive LastOp where
  | none
  | read
  | write
  | conditionalWrite
  deriving DecidableEq, Repr

/-- The values of `ir_select` (R31). -/
inductive IrSelect where
  | unknown
  | dtminfo
  | dbus
  deriving DecidableEq, Repr

/-- The values of the Target Lifecycle State (R32, R192). -/
inductive Lifecycle where
  | unexamined
  | halted
  | running
  | debugRunning
  deriving DecidableEq, Repr

/-- The fatal error kinds with what each records (R221). -/
inductive FatalKind where
  | transportError
  | assertAddressBits
  | authRequired (authType : BitVec 2)
  | scratchSizeZero
  | scratchAllocFail (size : Word)
  | deviceUnresponsive (op : WireOp) (address : DbusAddr)
  deriving DecidableEq, Repr

/-- The refusal kinds with what each records (R221, R229). -/
inductive RefusalKind where
  | notAttached
  | sessionFailed (kind : FatalKind)
  | addressRange (address : DbusAddr)
  | indexRange (index : Word)
  | jumpRange (offset : Int)
  | geometryRange (value : Nat)
  deriving DecidableEq, Repr

/-- The records of the log: the soft error kinds with what each records (R38, R221). -/
inductive LogRecord where
  | resultNoWrite (op : WireOp) (address : DbusAddr)
  | resultFailed (op : WireOp) (address : DbusAddr)
  | verifyMismatch (index expected got : Word)
  deriving DecidableEq, Repr

/-- The value of a command that returns `Ok` (R105). -/
inductive Value where
  | unit
  | addressBits (width : BitVec 8)
  | scanned (result : ResultCode) (dataIn : DbusData)
  | data (v : BitVec 64)
  | word (v : Word)
  | bool (b : Bool)
  | lifecycle (l : Lifecycle)
  deriving DecidableEq, Repr

/-- What a command returns to the front end (R11). -/
inductive CmdResult where
  | ok (v : Value)
  | err (kind : FatalKind)
  | refused (kind : RefusalKind)
  deriving DecidableEq, Repr

/-- An item queued on the scan port and not yet flushed (R41, R52). -/
inductive PortItem where
  | select (r : DataReg)
  | shift (width : Nat) (out : Nat)
  deriving DecidableEq, Repr

/-- One call the block made on its scan port or its hook port, a flush with what it was answered (R10, R41, R42). -/
inductive PortEvent where
  | select (r : DataReg)
  | shift (width : Nat) (out : Nat)
  | flush (answer : Answer)
  | hook (h : HookName)
  deriving DecidableEq, Repr

/-- An open retry loop: the request it repeats and its count (R35, R152). -/
structure RetryLoop where
  op : WireOp
  address : DbusAddr
  dataOut : DbusData
  retries : Nat
  deriving DecidableEq, Repr

/-- Why the model stops with a fault. Safe: the spec itself asks for it (R28). -/
inductive Fault where
  /-- Raised by `State.readMirror`, the front end's read of a mirror word whose valid bit is 0, or that does not exist: it
  "holds no value" (R28). No step of the machine raises it. Safe. -/
  | mirrorWordHoldsNoValue (index : Nat)
  deriving DecidableEq, Repr

/-- Why the model has no meaning for what a step meets. -/
inductive Refusal where
  /-- Raised by an arm of `exec` whose instruction has no meaning yet; no arm is left so. Safe. -/
  | notModelled (mnemonic : String)
  /-- Raised by `step` on a port word that is no instruction (R106, log 15). Safe. -/
  | undecodable (why : DecodeError)
  deriving DecidableEq, Repr

/-- The state of the machine. The device behind the scan port is not in it: it is the environment that answers (log 24). -/
structure State where
  /-- The construction parameters (R7); no step writes them (log 23). -/
  params : Params
  /-- `attached` (R21). -/
  attached : Bool
  /-- `address_bits` (R22). -/
  addressBits : BitVec 8
  /-- `last_address` (R23); `none` is the sentinel `Unknown`. -/
  lastAddress : Option DbusAddr
  /-- `last_op` (R24). -/
  lastOp : LastOp
  /-- `scratch_size` (R26). -/
  scratchSize : Word
  /-- `scratch_valid_mask` (R27), bit i at position i. -/
  scratchValidMask : List Bool
  /-- `scratch_mirror` (R28), word i at position i. -/
  scratchMirror : List Word
  /-- `examined` (R29). -/
  examined : Bool
  /-- `fault` (R30). -/
  fault : Option FatalKind
  /-- `ir_select` (R31). -/
  irSelect : IrSelect
  /-- `state` of the Target Lifecycle (R32). -/
  lifecycle : Lifecycle
  /-- The open retry loop, with `retries` (R35); `none` between commands. -/
  retry : Option RetryLoop
  /-- The scan queue (R52). -/
  scanQueue : List PortItem
  /-- The log output (R38, R43), oldest first. -/
  log : List LogRecord
  /-- What the block did on its scan and hook ports (R40 to R42), oldest first; the model's own record (log 18). -/
  portTrace : List PortEvent
  /-- What the last command returned on the command port (R11, R40; log 2). -/
  result : Option CmdResult
  /-- Input: the words waiting on the command port, the next first (R40; log 14). -/
  commands : List PortWord
  /-- Input: the outcomes of the coming flushes, the next first (R41; log 3). -/
  answers : List Answer
  /-- Input: what the coming hook calls do, the next first (R238; log 4). -/
  hookScripts : List (List HookStep)
  /-- Input: the timeout input sampled at the last flush (D11; log 17). -/
  timeoutExpired : Bool
  /-- How many free values have been drawn (logs 3, 4, 7); the model's own counter. -/
  draws : Nat
  /-- The target core's program counter (R36); moved by `JUMP_WORD` only (log 8). -/
  corePc : Word
  deriving DecidableEq, Repr

/-- Power-on (R54, first column), with the default parameters of R7, empty ports, and the values logs 2, 3, 6, 8, 9, 14, 17 and
18 name where the spec gives none. -/
def State.reset : State where
  params := defaultParams
  attached := false
  addressBits := 0#8
  lastAddress := none
  lastOp := .none
  scratchSize := 0#32
  scratchValidMask := List.replicate 64 false
  scratchMirror := List.replicate 64 0#32
  examined := false
  fault := none
  irSelect := .unknown
  lifecycle := .unexamined
  retry := none
  scanQueue := []
  log := []
  portTrace := []
  result := none
  commands := []
  answers := []
  hookScripts := []
  timeoutExpired := false
  draws := 0
  corePc := 0#32

end Sys2Proof.Machine
end

