-- ==== Sys2Proof/Machine/Operands.lean ====
section
/-! DEFINITION. Sys2Proof/Machine/Operands.lean: every operand form of the block: the Debug RAM mapper (spec/20_memory.md R66 to
R68), the jump offset and its encoders (30_encoding.md R102, R103), and the fields of the two information registers
(R100, R101). -/

namespace Sys2Proof.Machine

/-- `map(i)`, on natural numbers: pure and total (R66, R67). -/
def mapIndex (i : Nat) : Nat := if i < 16 then i else 0x40 + (i - 16)

/-- The DBUS address operand for a Debug RAM index. For the legal indices, below 64, `map` fits 16 bits (R65; log 19). -/
def slotAddress (index : Word) : DbusAddr := BitVec.ofNat 16 (mapIndex index.toNat)

/-- The byte address of a slot in the target core's address space, `SCRATCH_BASE + 4*map(i)`, as a number (R68). -/
def slotCoreAddress (p : Params) (index : Word) : Nat := p.scratchBase.toNat + 4 * mapIndex index.toNat

/-- `offset(index) = RESUME_VECTOR - (SCRATCH_BASE + 4 * map(index))`, of mathematical integers (R102). -/
def jumpOffset (p : Params) (index : Word) : Int :=
  (p.resumeVector.toNat : Int) - (slotCoreAddress p index : Int)

/-- The offset is even and in `-2^20 .. 2^20 - 2` (R102, R178). -/
def jumpOffsetLegal (off : Int) : Bool :=
  decide (off % 2 = 0) && decide (-(2 ^ 20) ≤ off) && decide (off ≤ 2 ^ 20 - 2)

/-- `encode_jump(offset)` (R103): the default encoder with `imm = offset mod 2^21`, or the platform's own (D23, log 5). -/
def encodeJump (p : Params) (off : Int) : Word :=
  match p.jumpEncoder with
  | .jalX0 => jumpBits (BitVec.ofInt 21 off)
  | .platform id => Config.platformJumpWord id off

/-- The staged word of a resume jump at `index` (R178). -/
def resumeJumpWord (p : Params) (index : Word) : Word := encodeJump p (jumpOffset p index)

/-- The address-bit count of the DTM-info register (R92, R101), before its range check (R122). -/
def dtmAddressBits (p : Params) (v : Nat) : Nat :=
  (v >>> p.dtminfoAddrbitsLsb) % 2 ^ p.dtminfoAddrbitsWidth

/-- The authentication-type field of the debug-module-info register (R100). -/
def infoAuthType (p : Params) (info : BitVec 64) : BitVec 2 := info.extractLsb' p.infoAuthLsb 2

/-- `scratch_size = zext_32(size_field) + 1` (R100). -/
def infoScratchSize (p : Params) (info : BitVec 64) : Word :=
  (info.extractLsb' p.infoSizeLsb 6).zeroExtend 32 + 1#32

/-- The low 32 bits of a register value: what a Debug RAM load returns (R172, R180). -/
def lowWord (v : BitVec 64) : Word := v.truncate 32

/-- The target of a relative jump at `pc` with offset image `imm` (R102, R103; log 8). -/
def jumpTarget (pc : Word) (imm : BitVec 21) : Word := pc + imm.signExtend 32

end Sys2Proof.Machine
end

