-- ==== Sys2Proof/Machine/Ops.lean ====
section
/-! DEFINITION. Sys2Proof/Machine/Ops.lean: the named operations over the state: the register updates, the port primitives of
spec/00_scope.md R10, raising a fatal error (60_exceptions.md R230), refusing (R231), the return from a failed session
(R190, R191, R235), how a command's procedure runs and returns (R11), and what the front end can read (R40). -/

namespace Sys2Proof.Machine

/-! ### Register updates -/

/-- The image of an operation code in `last_op` (R24). -/
def lastOpOf : WireOp → LastOp
  | .nop => .none
  | .read => .read
  | .write => .write
  | .conditionalWrite => .conditionalWrite

/-- The address cache takes the request just driven (R23, R24, R25). -/
def State.cacheRequest (s : State) (op : WireOp) (address : DbusAddr) : State :=
  { s with lastAddress := some address, lastOp := lastOpOf op }

def State.setAddressBits (s : State) (w : BitVec 8) : State := { s with addressBits := w }

def State.setIrSelect (s : State) (r : IrSelect) : State := { s with irSelect := r }

def State.setScratchSize (s : State) (n : Word) : State := { s with scratchSize := n }

def State.setExamined (s : State) : State := { s with examined := true }

def State.setLifecycle (s : State) (l : Lifecycle) : State := { s with lifecycle := l }

def State.setRetry (s : State) (r : Option RetryLoop) : State := { s with retry := r }

def State.setResult (s : State) (r : CmdResult) : State := { s with result := some r }

def State.setCorePc (s : State) (pc : Word) : State := { s with corePc := pc }

/-- `S.fault <- kind` if it is clear: only the first fatal kind of a session is recorded (R230, R234). -/
def State.recordFault (s : State) (k : FatalKind) : State :=
  { s with fault := match s.fault with | none => some k | some k0 => some k0 }

/-- `Log(kind, info)` (R10, R232). -/
def State.appendLog (s : State) (r : LogRecord) : State := { s with log := s.log ++ [r] }

/-- The mirror word and its valid bit after a `write_word`, for an index inside the mirror (R174, D21). -/
def State.writeMirror (s : State) (i : Nat) (v : Word) (valid : Bool) : State :=
  { s with
    scratchMirror := if i < s.params.mirrorCapacity then s.scratchMirror.set i v else s.scratchMirror
    scratchValidMask := if i < s.params.mirrorCapacity then s.scratchValidMask.set i valid else s.scratchValidMask }

/-- The valid bit cleared by a verify mismatch, for an index inside the mirror (R176, D20). -/
def State.clearValid (s : State) (i : Nat) : State :=
  { s with
    scratchValidMask := if i < s.params.mirrorCapacity then s.scratchValidMask.set i false else s.scratchValidMask }

/-- What a device reset invalidates: the whole valid mask and the lifecycle state (R33, R203). -/
def State.invalidateOnDeviceReset (s : State) : State :=
  { s with scratchValidMask := List.replicate s.params.mirrorCapacity false, lifecycle := .unexamined }

/-- Every session register at its session-start value (R54, R190, R191), `attached` as given; the mirror, which R54 leaves
unspecified, takes free values (log 7). This is the one return from a failed session (R235); nothing else is written (log 22). -/
def State.startSession (s : State) (attached : Bool) : State :=
  { s with
    attached := attached
    addressBits := 0#8
    lastAddress := none
    lastOp := .none
    scratchSize := 0#32
    scratchValidMask := List.replicate s.params.mirrorCapacity false
    scratchMirror := (List.range s.params.mirrorCapacity).map (Config.freeMirrorWord s.draws)
    examined := false
    fault := none
    irSelect := .unknown
    lifecycle := .unexamined
    draws := s.draws + 1 }

/-! ### The ports -/

/-- `Port.select(sel)`: queued (R10, R41). -/
def State.portSelect (s : State) (r : DataReg) : State :=
  { s with scanQueue := s.scanQueue ++ [.select r], portTrace := s.portTrace ++ [.select r] }

/-- `Port.shift(n, out)`: queued; its `in` has no value until the flush (R10, R283). -/
def State.portShift (s : State) (width out : Nat) : State :=
  { s with scanQueue := s.scanQueue ++ [.shift width out], portTrace := s.portTrace ++ [.shift width out] }

/-- What the next flush is answered: the next input, or a free value when the inputs are used up (D1, log 3). -/
def State.nextAnswer (s : State) : Answer :=
  match s.answers with
  | a :: _ => a
  | [] => Config.freeAnswer s.draws

/-- The state after `Port.flush()`, whatever it was answered: the queue has been executed (R41, R71; log 11). -/
def State.flushed (s : State) : State :=
  { s with
    scanQueue := []
    portTrace := s.portTrace ++ [.flush s.nextAnswer]
    answers := s.answers.tail
    timeoutExpired := s.nextAnswer.late
    draws := if s.answers.isEmpty then s.draws + 1 else s.draws }

/-- What the next hook call does: the next input, or a free value when the inputs are used up (R238, log 4). -/
def State.nextHookScript (s : State) : List HookStep :=
  match s.hookScripts with
  | h :: _ => h
  | [] => Config.freeHookScript s.draws

/-- The state on entry to a present hook (R42). -/
def State.enterHook (s : State) (h : HookName) : State :=
  { s with
    portTrace := s.portTrace ++ [.hook h]
    hookScripts := s.hookScripts.tail
    draws := if s.hookScripts.isEmpty then s.draws + 1 else s.draws }

/-- The command port after the block has accepted its first word (R40). -/
def State.acceptCommand (s : State) (rest : List PortWord) : State := { s with commands := rest }

/-! ### Procedures -/

/-- How a procedure of the pseudocode ends (R11). -/
inductive Res (α : Type) where
  | ok (a : α)
  | err (kind : FatalKind)
  | refused (kind : RefusalKind)
  deriving DecidableEq, Repr

/-- A procedure of the pseudocode: it ends one of three ways and leaves a state; nothing is undone (R230 item 4). -/
abbrev Proc (α : Type) := State → Res α × State

/-- `return Ok(a)`. -/
def done {α : Type} (a : α) : Proc α := fun s => (.ok a, s)

/-- One procedure after another; `Err` and `Refused` propagate outward (R11). -/
def andThen {α β : Type} (p : Proc α) (f : α → Proc β) : Proc β := fun s =>
  match p s with
  | (.ok a, s1) => f a s1
  | (.err k, s1) => (.err k, s1)
  | (.refused k, s1) => (.refused k, s1)

/-- `raise Fatal(kind)`: the one operation that takes the machine's exception (R230). -/
def raiseFatal {α : Type} (k : FatalKind) : Proc α := fun s => (.err k, s.recordFault k)

/-- `refuse(kind)` (R231). -/
def refuse {α : Type} (k : RefusalKind) : Proc α := fun s => (.refused k, s)

/-- A register update as a procedure. -/
def update (f : State → State) : Proc Unit := fun s => (.ok (), f s)

/-- The tests at the entry of every command but `attach` and `detach`, in their order (R21, R30, R234). -/
def requireSession : Proc Unit := fun s =>
  if s.attached = false then refuse .notAttached s
  else match s.fault with
    | some k => refuse (.sessionFailed k) s
    | none => done () s

/-- The index check of the Debug RAM commands (R171). -/
def requireIndex (index : Word) : Proc Unit := fun s =>
  if s.scratchSize ≤ index then refuse (.indexRange index) s else done () s

/-- A command's procedure run as one step: what it returns stands on the command port (R11, R36, R40; logs 1, 2). -/
def finish {α : Type} (p : Proc α) (value : α → Value) (s : State) : Host.Outcome State Fault Refusal :=
  match p s with
  | (.ok a, s1) => .next (s1.setResult (.ok (value a)))
  | (.err k, s1) => .next (s1.setResult (.err k))
  | (.refused k, s1) => .next (s1.setResult (.refused k))

/-! ### What the front end reads at an idle moment (R40) -/

/-- The registers readable by the front end (R40), less the mirror words. -/
structure FrontEndView where
  lifecycle : Lifecycle
  examined : Bool
  fault : Option FatalKind
  addressBits : BitVec 8
  scratchSize : Word
  scratchValidMask : List Bool
  deriving DecidableEq, Repr

def State.frontEndView (s : State) : FrontEndView where
  lifecycle := s.lifecycle
  examined := s.examined
  fault := s.fault
  addressBits := s.addressBits
  scratchSize := s.scratchSize
  scratchValidMask := s.scratchValidMask

/-- The front end's read of a mirror word: a word whose valid bit is 0 holds no value, and reading it is a fault (R28, log 25). -/
def State.readMirror (s : State) (i : Nat) : Except Fault Word :=
  match s.scratchValidMask[i]?, s.scratchMirror[i]? with
  | some true, some w => .ok w
  | _, _ => .error (.mirrorWordHoldsNoValue i)

/-! ### The codes of 60_exceptions.md R221 ("for reference only", D35) -/

def FatalKind.code : FatalKind → Nat
  | .transportError => 1
  | .assertAddressBits => 2
  | .authRequired _ => 3
  | .scratchSizeZero => 4
  | .scratchAllocFail _ => 5
  | .deviceUnresponsive _ _ => 6

def LogRecord.code : LogRecord → Nat
  | .resultNoWrite _ _ => 16
  | .resultFailed _ _ => 17
  | .verifyMismatch _ _ _ => 18

def RefusalKind.code : RefusalKind → Nat
  | .notAttached => 32
  | .sessionFailed _ => 33
  | .addressRange _ => 34
  | .indexRange _ => 35
  | .jumpRange _ => 36
  | .geometryRange _ => 37

end Sys2Proof.Machine
end

