-- ==== Sys2Proof/Machine/JumpWord.lean ====
section
/-! DEFINITION. Sys2Proof/Machine/JumpWord.lean: the meaning of the staged jump word (spec/30_encoding.md R102, R103). -/

namespace Sys2Proof.Machine

/-- `JUMP_WORD`: the target core executes the staged relative jump, and its program counter moves by the offset; nothing of the
block changes (R103, R178; log 8). -/
def execJumpWord (imm : BitVec 21) (s : State) : Host.Outcome State Fault Refusal :=
  .next (s.setCorePc (jumpTarget s.corePc imm))

end Sys2Proof.Machine
end

