-- ==== Sys2Proof/Machine/Flags.lean ====
section
/-! DEFINITION. Sys2Proof/Machine/Flags.lean: what plays the part of flags in the block (spec/10_state.md R37): the two status
bits `poll` decodes and the transition they select (44_lifecycle.md R196, R197), and the two request bits `write_word` sets
(30_encoding.md R98). -/

namespace Sys2Proof.Machine

/-- `HALT_BIT` (R7, D16). -/
def haltBit : Nat := 32

/-- `INT_BIT` (R7, D16). -/
def intBit : Nat := 33

/-- `LOW_REG_LIMIT` (R7, D18). -/
def lowRegLimit : DbusAddr := 16#16

/-- `wdata(value, set_interrupt)`: the halt-request bit always, the interrupt-request bit when asked (R98). -/
def wdata (value : Word) (setInterrupt : Bool) : DbusData :=
  value.zeroExtend 34 ||| 1#34 <<< haltBit ||| (if setInterrupt then 1#34 <<< intBit else 0#34)

/-- `halt-acknowledged` in the data read (R99). -/
def haltAck (v : BitVec 64) : Bool := v.getLsbD haltBit

/-- `interrupt-pending` in the data read (R99). -/
def interruptPending (v : BitVec 64) : Bool := v.getLsbD intBit

/-- `next_state(old, h, i)` (R197). -/
def nextLifecycle (old : Lifecycle) (h i : Bool) : Lifecycle :=
  match h, i with
  | true, true => .debugRunning
  | true, false => .halted
  | false, true => old
  | false, false => .running

/-- `poll_address()` (R196). -/
def pollAddress (s : State) : DbusAddr :=
  match s.lastAddress with
  | some a => if a < lowRegLimit ∨ a = s.params.ctrlAddr then a else 0#16
  | none => 0#16

/-- The hit test of `read(A)`: the cache shows A with a pending read (R153, D8). -/
def cacheHit (s : State) (address : DbusAddr) : Bool :=
  decide (s.lastAddress = some address) && decide (s.lastOp = .read)

/-- The timeout input of D11 counts only where `OP_TIMEOUT` is configured (log 17). -/
def timedOut (s : State) : Bool := s.params.opTimeout.isSome && s.timeoutExpired

end Sys2Proof.Machine
end

