-- ==== Sys2Proof/Machine/Engine.lean ====
section
/-! DEFINITION. Sys2Proof/Machine/Engine.lean: the DBUS register access engine (spec/42_dbus_access_engine.md): one scan (R150), the
retry loop (R152), `read` (R153) and `write` (R155), and the meanings of the three commands. -/

namespace Sys2Proof.Machine

/-- The debug-bus scan itself, after the checks: assemble, queue, cache, flush, decode (R150). The vector shifted in is the low bits
of the answer (log 21). -/
def driveScan (op : WireOp) (address : DbusAddr) (dataOut : DbusData) : Proc (ResultCode × DbusData) := fun s =>
  let n := s.addressBits.toNat + 36
  let s1 := (s.portShift n (assemble op address dataOut)).cacheRequest op address
  match s1.nextAnswer with
  | .err => raiseFatal .transportError s1.flushed
  | .ok v _ => done (responseCode (v % 2 ^ n), dataField (v % 2 ^ n)) s1.flushed

/-- `scan(op, address, data_out)` (R150, R151), its tests in the order of R234. -/
def scanProc (op : WireOp) (address : DbusAddr) (dataOut : DbusData) : Proc (ResultCode × DbusData) :=
  andThen requireSession fun _ s =>
    if s.addressBits = 0#8 then raiseFatal .assertAddressBits s
    else if 2 ^ s.addressBits.toNat ≤ address.toNat then refuse (.addressRange address) s
    else driveScan op address dataOut s

/-- A retry loop is left: it is open no more (R35). -/
def leaveLoop {α : Type} (r : Res α) (s : State) : Res α × State := (r, s.setRetry none)

/-- What the block makes of a response `(code, data)` to the request of the open loop, `remaining` more scans being allowed
(R135 to R139, R152). With no loop open the response is that of a bare scan and is handed back as it is (R150). -/
def respond : Nat → ResultCode → DbusData → Proc (ResultCode × DbusData)
  | remaining, code, data => fun s =>
    match s.retry with
    | none => done (code, data) s
    | some l =>
      match code with
      | .success => leaveLoop (.ok (.success, data)) s
      | .noWrite => leaveLoop (.ok (.noWrite, data)) (s.appendLog (.resultNoWrite l.op l.address))
      | .failed => leaveLoop (.ok (.failed, data)) (s.appendLog (.resultFailed l.op l.address))
      | .busy =>
        if timedOut s then raiseFatal (.deviceUnresponsive l.op l.address) (s.setRetry none)
        else match remaining with
          | 0 => raiseFatal (.deviceUnresponsive l.op l.address) (s.setRetry none)
          | more + 1 =>
            match scanProc l.op l.address l.dataOut (s.setRetry (some { l with retries := l.retries + 1 })) with
            | (.ok (c, d), s1) => respond more c d s1
            | (.err k, s1) => leaveLoop (.err k) s1
            | (.refused k, s1) => leaveLoop (.refused k) s1

/-- How many more scans the open loop allows: `MAX_RETRIES - retries` (R152). -/
def retriesLeft (s : State) : Nat :=
  match s.retry with
  | none => 0
  | some l => s.params.maxRetries - l.retries

/-- A response arriving, in whatever loop is open. -/
def receive (code : ResultCode) (data : DbusData) : Proc (ResultCode × DbusData) := fun s =>
  respond (retriesLeft s) code data s

/-- `scan_retry(op, address, data_out)` (R152): open the loop with `retries = 0`, scan, and treat the response. -/
def scanRetry (op : WireOp) (address : DbusAddr) (dataOut : DbusData) : Proc (ResultCode × DbusData) := fun s =>
  match scanProc op address dataOut (s.setRetry (some ⟨op, address, dataOut, 0⟩)) with
  | (.ok (c, d), s1) => receive c d s1
  | (.err k, s1) => leaveLoop (.err k) s1
  | (.refused k, s1) => leaveLoop (.refused k) s1

/-- The address phase of `read(address)`, run only on a cache miss (R153). -/
def addressPhase (address : DbusAddr) : Proc Unit := fun s =>
  if cacheHit s address then done () s
  else andThen (scanRetry .read address 0#34) (fun _ => done ()) s

/-- `read(address)` (R153). -/
def readProc (address : DbusAddr) : Proc (BitVec 64) :=
  andThen (addressPhase address) fun _ =>
    andThen (scanRetry .read 0#16 0#34) fun r => done (r.2.zeroExtend 64)

/-- `write(address, value)`, with the terminal result for internal callers (R155). -/
def writeProc (address : DbusAddr) (value : DbusData) : Proc ResultCode :=
  andThen (scanRetry .write address value) fun r => done r.1

/-! ### The commands -/

/-- `scan` (R150). -/
def execScan (op : WireOp) (address : DbusAddr) (dataOut : DbusData) (s : State) : Host.Outcome State Fault Refusal :=
  finish (scanProc op address dataOut) (fun r => .scanned r.1 r.2) s

/-- `read` (R153). -/
def execRead (address : DbusAddr) (s : State) : Host.Outcome State Fault Refusal :=
  finish (readProc address) (fun v => .data v) s

/-- `write` (R155): the front end sees `Ok` with no value. -/
def execWrite (address : DbusAddr) (value : DbusData) (s : State) : Host.Outcome State Fault Refusal :=
  finish (writeProc address value) (fun _ => .unit) s

end Sys2Proof.Machine
end

