-- ==== Sys2Proof/Machine/DebugRam.lean ====
section
/-! DEFINITION. Sys2Proof/Machine/DebugRam.lean: the Debug RAM abstraction (spec/43_debug_ram.md R171 to R180). -/

namespace Sys2Proof.Machine

/-- `read_word(index)` (R172). -/
def readWordProc (index : Word) : Proc Word :=
  andThen requireSession fun _ =>
  andThen (requireIndex index) fun _ =>
  andThen (readProc (slotAddress index)) fun v => done (lowWord v)

/-- `write_word(index, value, set_interrupt)` (R174). -/
def writeWordProc (index value : Word) (setInterrupt : Bool) : Proc Unit :=
  andThen requireSession fun _ =>
  andThen (requireIndex index) fun _ =>
  andThen (writeProc (slotAddress index) (wdata value setInterrupt)) fun r =>
  update fun s => s.writeMirror index.toNat value (decide (r = .success))

/-- `verify_word(index, expected)` (R176). -/
def verifyWordProc (index expected : Word) : Proc Bool :=
  andThen (readWordProc index) fun got =>
    if got = expected then done true
    else andThen (update fun s => (s.appendLog (.verifyMismatch index expected got)).clearValid index.toNat) fun _ =>
      done false

/-- The range check of the jump offset (R178). -/
def requireJump (off : Int) : Proc Unit := fun s =>
  if jumpOffsetLegal off then done () s else refuse (.jumpRange off) s

/-- `write_resume_jump(index, set_interrupt)` (R178). -/
def writeResumeJumpProc (index : Word) (setInterrupt : Bool) : Proc Unit :=
  andThen requireSession fun _ =>
  andThen (requireIndex index) fun _ s =>
  andThen (requireJump (jumpOffset s.params index)) (fun _ =>
    writeWordProc index (resumeJumpWord s.params index) setInterrupt) s

/-- `read_word` (R172). -/
def execReadWord (index : Word) (s : State) : Host.Outcome State Fault Refusal :=
  finish (readWordProc index) (fun w => .word w) s

/-- `write_word` (R174). -/
def execWriteWord (index value : Word) (setInterrupt : Bool) (s : State) : Host.Outcome State Fault Refusal :=
  finish (writeWordProc index value setInterrupt) (fun _ => .unit) s

/-- `verify_word` (R176). -/
def execVerifyWord (index expected : Word) (s : State) : Host.Outcome State Fault Refusal :=
  finish (verifyWordProc index expected) (fun b => .bool b) s

/-- `write_resume_jump` (R178). -/
def execWriteResumeJump (index : Word) (setInterrupt : Bool) (s : State) : Host.Outcome State Fault Refusal :=
  finish (writeResumeJumpProc index setInterrupt) (fun _ => .unit) s

end Sys2Proof.Machine
end

