-- ==== Sys2Proof/Machine/Hooks.lean ====
section
/-! DEFINITION. Sys2Proof/Machine/Hooks.lean: the hook calls (spec/60_exceptions.md R238, 10_state.md R42): a finite sequence of
non-lifecycle commands, each with its normal rules (U14). -/

namespace Sys2Proof.Machine

/-- One command of a hook; its value goes to the hook, outside the block. -/
def hookCommand : HookCmd → Proc Unit
  | .scan op a d => andThen (scanProc op a d) fun _ => done ()
  | .read a => andThen (readProc a) fun _ => done ()
  | .write a v => andThen (writeProc a v) fun _ => done ()
  | .readWord i => andThen (readWordProc i) fun _ => done ()
  | .writeWord i v f => writeWordProc i v f
  | .verifyWord i e => andThen (verifyWordProc i e) fun _ => done ()
  | .writeResumeJump i f => writeResumeJumpProc i f

/-- A hook runs to completion; a fatal error aborts it and its caller (R235), a refusal as the hook chooses (log 4). -/
def runHook : List HookStep → Proc Unit
  | [] => done ()
  | step :: rest => fun s =>
    match hookCommand step.cmd s with
    | (.ok _, s1) => runHook rest s1
    | (.err k, s1) => (.err k, s1)
    | (.refused k, s1) => if step.handOnRefusal then (.refused k, s1) else runHook rest s1

/-- `Hook.name()`: a no-op if absent (R10, R42). -/
def callHook (h : HookName) : Proc Unit := fun s =>
  if s.params.hasHook h then runHook s.nextHookScript (s.enterHook h) else done () s

end Sys2Proof.Machine
end

