-- ==== Sys2Proof/Machine/Selectors.lean ====
section
/-! DEFINITION. Sys2Proof/Machine/Selectors.lean: the two selector scans (spec/40_jtag_select_dtm_info.md R120, R121) and the DTM
Info Reader, `read_dtm_info` (R122 to R124). -/

namespace Sys2Proof.Machine

/-- `SELECT_DTMINFO`: queued, no state of its own (R120; log 11). -/
def execSelectDtminfo (s : State) : Host.Outcome State Fault Refusal := .next (s.portSelect .dtminfo)

/-- `SELECT_DBUS`: queued, no state of its own (R121; log 11). -/
def execSelectDbus (s : State) : Host.Outcome State Fault Refusal := .next (s.portSelect .dbus)

/-- The decoded width, stored or refused after the selector is restored (R122, R123). -/
def storeAddressBits (ab : Nat) : Proc (BitVec 8) := fun s =>
  if 16 < ab then refuse (.geometryRange ab) s
  else done (BitVec.ofNat 8 ab) (s.setAddressBits (BitVec.ofNat 8 ab))

/-- `read_dtm_info()` (R122). -/
def readDtmInfoProc : Proc (BitVec 8) :=
  andThen requireSession fun _ s =>
    let s1 := ((s.portSelect .dtminfo).portShift 32 0).portSelect .dbus
    match s1.nextAnswer with
    | .err => raiseFatal .transportError (s1.flushed.setIrSelect .unknown)
    | .ok v _ => storeAddressBits (dtmAddressBits s.params (v % 2 ^ 32)) (s1.flushed.setIrSelect .dbus)

/-- `read_dtm_info` (R122). -/
def execReadDtmInfo (s : State) : Host.Outcome State Fault Refusal :=
  finish readDtmInfoProc (fun w => .addressBits w) s

end Sys2Proof.Machine
end

