-- ==== Sys2Proof/Machine/Lifecycle.lean ====
section
/-! DEFINITION. Sys2Proof/Machine/Lifecycle.lean: the session events and the target lifecycle state machine (spec/44_lifecycle.md
R190 to R205). -/

namespace Sys2Proof.Machine

/-! ### Session events -/

/-- `attach` (R190): never refused, in any state. -/
def execAttach (s : State) : Host.Outcome State Fault Refusal :=
  finish (update fun s => s.startSession true) (fun _ => .unit) s

/-- `detach` (R191): never refused, in any state. -/
def execDetach (s : State) : Host.Outcome State Fault Refusal :=
  finish (update fun s => s.startSession false) (fun _ => .unit) s

/-! ### examine -/

/-- The checks on the debug-module-info register, in their order, and the scratch size (R193, R234). -/
def acceptInfo (info : BitVec 64) : Proc Unit := fun s =>
  if infoAuthType s.params info ≠ 0#2 then raiseFatal (.authRequired (infoAuthType s.params info)) s
  else if infoScratchSize s.params info = 0#32 then raiseFatal .scratchSizeZero s
  else if s.params.mirrorCapacity < (infoScratchSize s.params info).toNat then
    raiseFatal (.scratchAllocFail (infoScratchSize s.params info)) s
  else done () (s.setScratchSize (infoScratchSize s.params info))

/-- Staging with verification: each word written without the interrupt bit and verified at once, the verdict ignored (R193). -/
def stageWords : List (Word × Word) → Proc Unit
  | [] => done ()
  | (k, w) :: rest =>
    andThen (writeWordProc k w false) fun _ =>
    andThen (verifyWordProc k w) fun _ =>
    stageWords rest

/-- The five probe words at indices 0 to 4 (R193, C1). -/
def probeWords (p : Probe) : List (Word × Word) :=
  [(0#32, p.w0), (1#32, p.w1), (2#32, p.w2), (3#32, p.w3), (4#32, p.w4)]

/-- The body of `examine` in a session not yet examined (R193). -/
def examineBody : Proc Unit :=
  andThen readDtmInfoProc fun _ =>
  andThen (fun s => readProc s.params.infoAddr s) fun info =>
  andThen (acceptInfo info) fun _ =>
  andThen (fun s => stageWords (probeWords s.params.probe) s) fun _ =>
  andThen (writeResumeJumpProc 5#32 false) fun _ =>
  andThen (fun s => verifyWordProc 5#32 (resumeJumpWord s.params 5#32) s) fun _ =>
  update State.setExamined

/-- `examine()` (R193, R194). -/
def examineProc : Proc Unit :=
  andThen requireSession fun _ s => if s.examined then done () s else examineBody s

/-- `examine` (R193). -/
def execExamine (s : State) : Host.Outcome State Fault Refusal := finish examineProc (fun _ => .unit) s

/-! ### poll -/

/-- The lifecycle state decoded from the data read (R195, R197). -/
def decodeStatus (v : BitVec 64) : Proc Lifecycle := fun s =>
  let l := nextLifecycle s.lifecycle (haltAck v) (interruptPending v)
  done l (s.setLifecycle l)

/-- `poll()` (R195). -/
def pollProc : Proc Lifecycle :=
  andThen requireSession fun _ s => andThen (readProc (pollAddress s)) decodeStatus s

/-- `poll` (R195). -/
def execPoll (s : State) : Host.Outcome State Fault Refusal := finish pollProc (fun l => .lifecycle l) s

/-! ### halt -/

/-- Both indices of `halt` checked before anything is done (R200); what the refusal records is the first index that does not
exist (log 16). -/
def requireTwoSlots : Proc Unit := fun s =>
  if s.scratchSize < 2#32 then refuse (.indexRange s.scratchSize) s else done () s

/-- `halt()` (R200). -/
def haltProc : Proc Unit :=
  andThen requireSession fun _ =>
  andThen requireTwoSlots fun _ =>
  andThen (callHook .preHalt) fun _ =>
  andThen (fun s => writeWordProc 0#32 s.params.haltInsn false s) fun _ =>
  writeResumeJumpProc 1#32 true

/-- `halt` (R200). -/
def execHalt (s : State) : Host.Outcome State Fault Refusal := finish haltProc (fun _ => .unit) s

/-! ### The reset placeholders and the device reset -/

/-- `assert_reset` (R201): the entry tests, then nothing. -/
def execAssertReset (s : State) : Host.Outcome State Fault Refusal := finish requireSession (fun _ => .unit) s

/-- `deassert_reset` (R202): the entry tests, then nothing. -/
def execDeassertReset (s : State) : Host.Outcome State Fault Refusal := finish requireSession (fun _ => .unit) s

/-- `device_reset()` (R203). -/
def deviceResetProc : Proc Unit :=
  andThen requireSession fun _ =>
  andThen (update State.invalidateOnDeviceReset) fun _ =>
  andThen (callHook .onReset) fun _ =>
  callHook .postReset

/-- `device_reset` (R203). -/
def execDeviceReset (s : State) : Host.Outcome State Fault Refusal := finish deviceResetProc (fun _ => .unit) s

end Sys2Proof.Machine
end

