-- ==== Sys2Proof/Machine/Wire.lean ====
section
/-! DEFINITION. Sys2Proof/Machine/Wire.lean: the meanings of the wire operations (spec/41_dbus_wire_ops.md R130 to R134) and of the
result codes (R135 to R139). -/

namespace Sys2Proof.Machine

/-- A request of the wire level is sent by `scan` (R130; log 10). -/
def sendRequest (op : WireOp) (address : DbusAddr) (data : DbusData) (s : State) : Host.Outcome State Fault Refusal :=
  finish (scanProc op address data) (fun r => .scanned r.1 r.2) s

/-- `NOP` (R131). Its data is "0 by convention" (D6); other data is sent as given (log 26, DESIGN CHOICE). -/
def execDbusNop (address : DbusAddr) (data : DbusData) (s : State) : Host.Outcome State Fault Refusal :=
  sendRequest .nop address data s

/-- `READ` (R132). Its data is 34 zero bits in every request the block makes itself (D6); a request row with other data is sent
as given (log 26, DESIGN CHOICE). -/
def execDbusRead (address : DbusAddr) (data : DbusData) (s : State) : Host.Outcome State Fault Refusal :=
  sendRequest .read address data s

/-- `WRITE` (R133). -/
def execDbusWrite (address : DbusAddr) (data : DbusData) (s : State) : Host.Outcome State Fault Refusal :=
  sendRequest .write address data s

/-- `CONDITIONAL_WRITE` (R134, R73). -/
def execDbusConditionalWrite (address : DbusAddr) (data : DbusData) (s : State) : Host.Outcome State Fault Refusal :=
  sendRequest .conditionalWrite address data s

/-- A response reaching the block: the open retry loop treats it, or a bare scan returns it (R135; log 9). -/
def takeResponse (code : ResultCode) (data : DbusData) (s : State) : Host.Outcome State Fault Refusal :=
  finish (receive code data) (fun r => .scanned r.1 r.2) s

/-- `SUCCESS` (R136); the address field of a response is ignored (R97). -/
def execRspSuccess (_address : DbusAddr) (data : DbusData) (s : State) : Host.Outcome State Fault Refusal :=
  takeResponse .success data s

/-- `NO_WRITE` (R137). -/
def execRspNoWrite (_address : DbusAddr) (data : DbusData) (s : State) : Host.Outcome State Fault Refusal :=
  takeResponse .noWrite data s

/-- `FAILED` (R138). -/
def execRspFailed (_address : DbusAddr) (data : DbusData) (s : State) : Host.Outcome State Fault Refusal :=
  takeResponse .failed data s

/-- `BUSY` (R139). -/
def execRspBusy (_address : DbusAddr) (data : DbusData) (s : State) : Host.Outcome State Fault Refusal :=
  takeResponse .busy data s

end Sys2Proof.Machine
end

