-- ==== Sys2Proof/Machine/Dispatch.lean ====
section
/-! DEFINITION. Sys2Proof/Machine/Dispatch.lean: one arm per instruction, each a direct call of its meaning. -/

namespace Sys2Proof.Machine

def exec (i : Instr) (s : State) : Host.Outcome State Fault Refusal :=
  match i with
  | .dbusNop address data => Sys2Proof.Machine.execDbusNop address data s
  | .dbusRead address data => Sys2Proof.Machine.execDbusRead address data s
  | .dbusWrite address data => Sys2Proof.Machine.execDbusWrite address data s
  | .dbusConditionalWrite address data => Sys2Proof.Machine.execDbusConditionalWrite address data s
  | .rspSuccess address data => Sys2Proof.Machine.execRspSuccess address data s
  | .rspNoWrite address data => Sys2Proof.Machine.execRspNoWrite address data s
  | .rspFailed address data => Sys2Proof.Machine.execRspFailed address data s
  | .rspBusy address data => Sys2Proof.Machine.execRspBusy address data s
  | .selectDtminfo => Sys2Proof.Machine.execSelectDtminfo s
  | .selectDbus => Sys2Proof.Machine.execSelectDbus s
  | .attach => Sys2Proof.Machine.execAttach s
  | .detach => Sys2Proof.Machine.execDetach s
  | .readDtmInfo => Sys2Proof.Machine.execReadDtmInfo s
  | .scan op address dataOut => Sys2Proof.Machine.execScan op address dataOut s
  | .read address => Sys2Proof.Machine.execRead address s
  | .write address value => Sys2Proof.Machine.execWrite address value s
  | .readWord index => Sys2Proof.Machine.execReadWord index s
  | .writeWord index value setInterrupt => Sys2Proof.Machine.execWriteWord index value setInterrupt s
  | .verifyWord index expected => Sys2Proof.Machine.execVerifyWord index expected s
  | .writeResumeJump index setInterrupt => Sys2Proof.Machine.execWriteResumeJump index setInterrupt s
  | .examine => Sys2Proof.Machine.execExamine s
  | .poll => Sys2Proof.Machine.execPoll s
  | .halt => Sys2Proof.Machine.execHalt s
  | .assertReset => Sys2Proof.Machine.execAssertReset s
  | .deassertReset => Sys2Proof.Machine.execDeassertReset s
  | .deviceReset => Sys2Proof.Machine.execDeviceReset s
  | .jumpWord imm => Sys2Proof.Machine.execJumpWord imm s

end Sys2Proof.Machine
end

