-- ==== Sys2Proof/Machine/Step.lean ====
section
/-! DEFINITION. Sys2Proof/Machine/Step.lean: one step: the idle block accepts the next word of the command port and runs it to
completion (spec/10_state.md R36, R40; logs 13 to 15). -/

namespace Sys2Proof.Machine

/-- One step. With nothing on the command port the block stays idle, unchanged (R36; log 14). -/
def step (s : State) : Host.Outcome State Fault Refusal :=
  match s.commands with
  | [] => .next s
  | w :: rest =>
    match decode s.params w with
    | .ok i => exec i (s.acceptCommand rest)
    | .error why => .refused (.undecodable why)

/-- The state with a word of the opcode table next on the command port. -/
def State.withFetchWord (s : State) (nbits w : Nat) : State :=
  s.acceptCommand (tableWord nbits w :: s.commands)

end Sys2Proof.Machine
end

