-- ==== Sys2Proof/Safety.lean ====
section
/-! DEFINITION. Sys2Proof/Safety.lean: the terms in which claims about the block are made: an open session, a request the bus can
carry, what a scripted answer says, the invariant of the machine's states (spec/10_state.md R22 to R39), and the named
environment assumptions of 41_dbus_wire_ops.md R140 as premises over what went across the scan port. -/

namespace Sys2Proof.Machine

/-! ### Session phases (R237) -/

/-- Attached and not failed: the tests every command but `attach` and `detach` makes at its entry (R21, R30). -/
abbrev SessionOpen (s : State) : Prop := s.attached = true ∧ s.fault = none

/-- An open session that knows its geometry, and an address its bus can carry (R22, R151). -/
abbrev BusReady (s : State) (address : DbusAddr) : Prop :=
  SessionOpen s ∧ s.addressBits ≠ 0#8 ∧ address.toNat < 2 ^ s.addressBits.toNat

/-- An open session with a Debug RAM slot whose DBUS address its bus can carry (R171, R151). -/
abbrev SlotReady (s : State) (index : Word) : Prop :=
  BusReady s (slotAddress index) ∧ index < s.scratchSize

/-! ### Instructions by kind -/

/-- The request row of a wire operation (R130 to R134). -/
def requestInstr : WireOp → DbusAddr → DbusData → Instr
  | .nop => .dbusNop
  | .read => .dbusRead
  | .write => .dbusWrite
  | .conditionalWrite => .dbusConditionalWrite

/-- The response row of a result code (R136 to R139). -/
def responseInstr : ResultCode → DbusAddr → DbusData → Instr
  | .success => .rspSuccess
  | .noWrite => .rspNoWrite
  | .failed => .rspFailed
  | .busy => .rspBusy

/-- What the session tests gate: every command but `attach` and `detach` (R237), and the bare requests, which are sent by
`scan` (R130). Responses, selectors and the jump word are no commands. -/
def gated : Instr → Bool
  | .attach | .detach | .selectDtminfo | .selectDbus | .jumpWord _ => false
  | .rspSuccess _ _ | .rspNoWrite _ _ | .rspFailed _ _ | .rspBusy _ _ => false
  | .dbusNop _ _ | .dbusRead _ _ | .dbusWrite _ _ | .dbusConditionalWrite _ _ => true
  | .readDtmInfo | .scan _ _ _ | .read _ | .write _ _ => true
  | .readWord _ | .writeWord _ _ _ | .verifyWord _ _ | .writeResumeJump _ _ => true
  | .examine | .poll | .halt | .assertReset | .deassertReset | .deviceReset => true

/-- The instructions that may write the mirror (R28): the word writes, the commands made of them, those that run hooks, and the
session events. -/
def writesMirror : Instr → Bool
  | .writeWord _ _ _ | .writeResumeJump _ _ | .examine | .halt | .deviceReset | .attach | .detach => true
  | .dbusNop _ _ | .dbusRead _ _ | .dbusWrite _ _ | .dbusConditionalWrite _ _ => false
  | .rspSuccess _ _ | .rspNoWrite _ _ | .rspFailed _ _ | .rspBusy _ _ => false
  | .selectDtminfo | .selectDbus | .jumpWord _ => false
  | .readDtmInfo | .scan _ _ _ | .read _ | .write _ _ | .readWord _ | .verifyWord _ _ => false
  | .poll | .assertReset | .deassertReset => false

/-! ### Scans and their answers -/

/-- The width of a debug-bus scan (R95). -/
def busWidth (s : State) : Nat := s.addressBits.toNat + 36

/-- The vector of an answer, as many bits as the scan has; none when the flush failed (R41). -/
def answerVector (s : State) : Answer → Option Nat
  | .err => none
  | .ok v _ => some (v % 2 ^ busWidth s)

/-- The result code an answer carries on the debug bus (R97). -/
def answerCode (s : State) (a : Answer) : Option ResultCode := (answerVector s a).map responseCode

/-- The data an answer carries on the debug bus (R97); 0 for a failed flush, which carries none. -/
def answerData (s : State) (a : Answer) : DbusData := ((answerVector s a).map dataField).getD 0#34

/-- A BUSY answer after which the retry loop may go on: the optional timeout has not run out (R152, D11). -/
abbrev BusyAnswer (s : State) (a : Answer) : Prop :=
  answerCode s a = some .busy ∧ (s.params.opTimeout = none ∨ a.late = false)

/-- An answer that ends a retry loop normally: delivered, and not BUSY (R152). -/
abbrev FinalAnswer (s : State) (a : Answer) : Prop :=
  answerCode s a ≠ none ∧ answerCode s a ≠ some .busy

/-- BUSY answers after which the loop gives up at one more, `x`: the last scan it is allowed, or one that comes when the optional
time has run out (R152, R227, D11; log 17). -/
abbrev GivesUp (s : State) (bs : List Answer) (x : Answer) : Prop :=
  (∀ b ∈ bs, BusyAnswer s b) ∧ answerCode s x = some .busy ∧
  (bs.length = s.params.maxRetries ∨
    (bs.length < s.params.maxRetries ∧ s.params.opTimeout.isSome = true ∧ x.late = true))

/-- The answers a retry loop takes when it ends normally: BUSY up to `MAX_RETRIES` times, then a final one (R152). -/
abbrev LoopAnswers (s : State) (used : List Answer) : Prop :=
  ∃ bs x, used = bs ++ [x] ∧ (∀ b ∈ bs, BusyAnswer s b) ∧ bs.length ≤ s.params.maxRetries ∧ FinalAnswer s x

/-- The answers the address phase of `read(address)` takes when it ends normally: none on a cache hit; a loop's on a miss, to
an address the bus can carry (R153). -/
abbrev AddressPhaseAnswers (s : State) (address : DbusAddr) (used : List Answer) : Prop :=
  (cacheHit s address = true ∧ used = []) ∨
  (cacheHit s address = false ∧ address.toNat < 2 ^ s.addressBits.toNat ∧ LoopAnswers s used)

/-- The result code a loop that took these answers ended with; none where no loop ran. -/
def endCode (s : State) (used : List Answer) : Option ResultCode := used.getLast?.bind (answerCode s)

/-- What one debug-bus scan leaves on the scan port's record: the request shifted out, and the flush (R150). -/
def exchange (s : State) (op : WireOp) (address : DbusAddr) (data : DbusData) (a : Answer) : List PortEvent :=
  [.shift (busWidth s) (assemble op address data), .flush a]

/-- What a retry loop leaves on the record: the identical request once for each answer (R152, R273). -/
def exchanges (s : State) (op : WireOp) (address : DbusAddr) (data : DbusData) (answers : List Answer) : List PortEvent :=
  answers.flatMap (exchange s op address data)

/-- The state after a run of debug-bus scans that all carry one request: the cache shows it, the queue is empty, the record
holds one exchange for each answer used, and the inputs have moved on (R150, R152). Everything else is as before. -/
def State.driven (s : State) (op : WireOp) (address : DbusAddr) (dataOut : DbusData) (used rest : List Answer) (late : Bool) :
    State :=
  { s with
    lastAddress := some address, lastOp := lastOpOf op, scanQueue := [],
    portTrace := s.portTrace ++ exchanges s op address dataOut used, answers := rest, timeoutExpired := late }

/-- The log records a loop's terminal answer causes: one for NO_WRITE or FAILED, none otherwise (R152, D12). -/
def softLog (op : WireOp) (address : DbusAddr) : Option ResultCode → List LogRecord
  | some .noWrite => [.resultNoWrite op address]
  | some .failed => [.resultFailed op address]
  | _ => []

/-- The state after `read(address)` whose two phases took `pre` and `bs ++ [y]`: the data phase to address 0 is the last
request (R153, R154). -/
def State.readDone (s : State) (address : DbusAddr) (pre bs : List Answer) (y : Answer) (rest : List Answer) : State :=
  { s with
    lastAddress := some 0#16, lastOp := .read, retry := none, scanQueue := [],
    portTrace := s.portTrace ++ exchanges s .read address 0#34 pre ++ exchanges s .read 0#16 0#34 (bs ++ [y]),
    answers := rest, timeoutExpired := y.late,
    log := s.log ++ softLog .read address (endCode s pre) ++ softLog .read 0#16 (answerCode s y) }

/-- The hook call ends normally in `t`: at once and with nothing done where the hook is absent, else with its commands run to
completion (R42, R238). -/
abbrev HookRuns (h : HookName) (s t : State) : Prop :=
  (s.params.hasHook h = false ∧ t = s) ∨
  (s.params.hasHook h = true ∧ runHook s.nextHookScript (s.enterHook h) = (.ok (), t))

/-- The state after the DTM-info scan has been answered with `v`: the selector restored and the width stored (R122). -/
def State.dtmRead (s : State) (v : Nat) (late : Bool) (rest : List Answer) : State :=
  { s with
    scanQueue := [],
    portTrace := s.portTrace ++ [.select .dtminfo, .shift 32 0, .select .dbus, .flush (.ok v late)],
    answers := rest, timeoutExpired := late, irSelect := .dbus,
    addressBits := BitVec.ofNat 8 (dtmAddressBits s.params (v % 2 ^ 32)) }

/-- The six words `examine` stages, each with its index (R193, C1). -/
def examineWords (p : Params) : List (Word × Word) := probeWords p.probe ++ [(5#32, resumeJumpWord p 5#32)]

/-- `examine`, from `s`, comes to `t` with these words still to be staged: the geometry and the info register read and accepted,
and the words before them written and verified, whatever the verdicts (R193). The jump is staged only at a legal offset (R178).
-/
inductive Staging (s : State) : List (Word × Word) → State → Prop where
  | start {v : Nat} {late : Bool} {rest : List Answer} {info : BitVec 64} {t u : State} (hx : s.examined = false)
      (hs : s.answers = .ok v late :: rest) (hw : dtmAddressBits s.params (v % 2 ^ 32) ≤ 16)
      (hr : readProc s.params.infoAddr (s.dtmRead v late rest) = (.ok info, t)) (ha : acceptInfo info t = (.ok (), u)) :
      Staging s (examineWords s.params) u
  | next {index value : Word} {words : List (Word × Word)} {t u w : State} {verdict : Bool}
      (h : Staging s ((index, value) :: words) t) (hj : words = [] → jumpOffsetLegal (jumpOffset s.params index) = true)
      (hw : writeWordProc index value false t = (.ok (), u)) (hv : verifyWordProc index value u = (.ok verdict, w)) :
      Staging s words w

/-- The command, from `s`, comes in the state `t` to a `read` of the address: `read`, `read_word`, `verify_word` and `poll` at
once, `examine` for the info register and for each word it verifies (R153, R172, R176, R193, R195). -/
inductive ComesToRead (s : State) : Instr → State → DbusAddr → Prop where
  | read (a : DbusAddr) : ComesToRead s (.read a) s a
  | readWord (index : Word) (h : index < s.scratchSize) : ComesToRead s (.readWord index) s (slotAddress index)
  | verifyWord (index expected : Word) (h : index < s.scratchSize) :
      ComesToRead s (.verifyWord index expected) s (slotAddress index)
  | poll : ComesToRead s .poll s (pollAddress s)
  | examineInfo {v : Nat} {late : Bool} {rest : List Answer} (hx : s.examined = false)
      (hs : s.answers = .ok v late :: rest) (hw : dtmAddressBits s.params (v % 2 ^ 32) ≤ 16) :
      ComesToRead s .examine (s.dtmRead v late rest) s.params.infoAddr
  | examineVerify {index value : Word} {words : List (Word × Word)} {t u : State} (h : Staging s ((index, value) :: words) t)
      (hj : words = [] → jumpOffsetLegal (jumpOffset s.params index) = true)
      (hw : writeWordProc index value false t = (.ok (), u)) : ComesToRead s .examine u (slotAddress index)

/-- The command, from `s`, comes in the state `t` to a write loop of the data to the address: `write`, `write_word` and
`write_resume_jump` at once, `halt` behind its hook and, the first word written, to the jump, `examine` for each word it stages
(R155, R174, R178, R193, R200). -/
inductive ComesToWrite (s : State) : Instr → State → DbusAddr → DbusData → Prop where
  | write (a : DbusAddr) (v : DbusData) : ComesToWrite s (.write a v) s a v
  | writeWord (index value : Word) (f : Bool) (h : index < s.scratchSize) :
      ComesToWrite s (.writeWord index value f) s (slotAddress index) (wdata value f)
  | writeResumeJump (index : Word) (f : Bool) (h : index < s.scratchSize)
      (hj : jumpOffsetLegal (jumpOffset s.params index) = true) :
      ComesToWrite s (.writeResumeJump index f) s (slotAddress index) (wdata (resumeJumpWord s.params index) f)
  | halt (t : State) (h : 2#32 ≤ s.scratchSize) (hr : HookRuns .preHalt s t) :
      ComesToWrite s .halt t 0#16 (wdata s.params.haltInsn false)
  | haltJump {t u : State} (h : 2#32 ≤ s.scratchSize) (hr : HookRuns .preHalt s t)
      (hw : writeWordProc 0#32 s.params.haltInsn false t = (.ok (), u))
      (hj : jumpOffsetLegal (jumpOffset s.params 1#32) = true) :
      ComesToWrite s .halt u 1#16 (wdata (resumeJumpWord s.params 1#32) true)
  | examine {index value : Word} {words : List (Word × Word)} {t : State} (h : Staging s ((index, value) :: words) t)
      (hi : index < t.scratchSize) (hj : words = [] → jumpOffsetLegal (jumpOffset s.params index) = true) :
      ComesToWrite s .examine t (slotAddress index) (wdata value false)

/-- The log records of words staged and verified on these answers, three for each: the terminal answers of its write and of the two
phases of its read, and a mismatch of the word read back (R152, R176, R193). -/
def stagedLog (s : State) : List (Word × Word) → List Answer → List LogRecord
  | (index, value) :: words, r1 :: r2 :: r3 :: answers =>
    softLog .write (slotAddress index) (answerCode s r1) ++ softLog .read (slotAddress index) (answerCode s r2) ++
      softLog .read 0#16 (answerCode s r3) ++
      (if (answerData s r3).extractLsb' 0 32 = value then []
       else [.verifyMismatch index value ((answerData s r3).extractLsb' 0 32)]) ++ stagedLog s words answers
  | _, _ => []

/-- The valid bits of words staged and verified on these answers: set where the write ended with SUCCESS and the word read back is
the word written (R174, R176). -/
def stagedValid (s : State) : List (Word × Word) → List Answer → List Bool
  | (_, value) :: words, r1 :: _ :: r3 :: answers =>
    (decide (answerCode s r1 = some .success) && decide ((answerData s r3).extractLsb' 0 32 = value)) ::
      stagedValid s words answers
  | _, _ => []

/-- The debug-bus requests of a completed `examine` without BUSY answers, in order (R193, R194), for a width `w`: the info
register (not on a cache `hit`) and its data phase, then for each of six words the write, the read of the same slot, and the
data phase. -/
def examineRequests (p : Params) (w : Nat) (hit : Bool) : List (Nat × Nat) :=
  let request (op : WireOp) (a : DbusAddr) (d : DbusData) : Nat × Nat := (w + 36, assemble op a d)
  let staged (k : DbusAddr) (word : Word) : List (Nat × Nat) :=
    [request .write k (wdata word false), request .read k 0#34, request .read 0#16 0#34]
  (if hit then [] else [request .read p.infoAddr 0#34]) ++ [request .read 0#16 0#34] ++
    staged 0#16 p.probe.w0 ++ staged 1#16 p.probe.w1 ++ staged 2#16 p.probe.w2 ++ staged 3#16 p.probe.w3 ++
    staged 4#16 p.probe.w4 ++ staged 5#16 (resumeJumpWord p 5#32)

/-- Number of data scans in a piece of the record. -/
def shiftCount : List PortEvent → Nat
  | [] => 0
  | .shift _ _ :: rest => shiftCount rest + 1
  | _ :: rest => shiftCount rest

/-- The scans one retry loop may drive (R152, R278). -/
def loopScans (p : Params) : Nat := p.maxRetries + 1

/-- The data scans a hook call may drive: two loops at most for each command of its script; none where it is absent (R238, R278). -/
def hookScanBound (h : HookName) (s : State) : Nat :=
  if s.params.hasHook h then s.nextHookScript.length * (2 * loopScans s.params) else 0

/-- The data scans an instruction may drive from `s`: one for a scan, one loop for a write, two for a read, the reads and writes of
the higher commands (R278), what an open loop has left for a response (R152). -/
def scanBound (s : State) : Instr → Nat
  | .attach | .detach | .assertReset | .deassertReset | .selectDtminfo | .selectDbus | .jumpWord _ => 0
  | .rspSuccess _ _ | .rspNoWrite _ _ | .rspFailed _ _ => 0
  | .rspBusy _ _ => s.params.maxRetries
  | .dbusNop _ _ | .dbusRead _ _ | .dbusWrite _ _ | .dbusConditionalWrite _ _ | .scan _ _ _ | .readDtmInfo => 1
  | .write _ _ | .writeWord _ _ _ | .writeResumeJump _ _ => loopScans s.params
  | .read _ | .readWord _ | .verifyWord _ _ | .poll => 2 * loopScans s.params
  | .examine => 1 + 20 * loopScans s.params
  | .halt => hookScanBound .preHalt s + 2 * loopScans s.params
  | .deviceReset =>
    hookScanBound .onReset s + hookScanBound .postReset (callHook .onReset s.invalidateOnDeviceReset).2

/-- The data scans in a piece of the record, each with its width and the vector shifted out. -/
def shiftsOf : List PortEvent → List (Nat × Nat)
  | [] => []
  | .shift n out :: rest => (n, out) :: shiftsOf rest
  | _ :: rest => shiftsOf rest

/-- The operation and address of the last debug-bus request in a piece of the record; the 32-bit scan is the DTM-info
register's, not the debug bus's (R60, R122). -/
def lastRequest : List PortEvent → Option (WireOp × DbusAddr)
  | [] => none
  | .shift n out :: rest =>
    (lastRequest rest).or (if n = 32 then none else some (WireOp.ofCode (lowField out), addressField out))
  | _ :: rest => lastRequest rest

/-- The address cache after a piece of the record: the last request in it, or what it was before (R25). -/
def CacheTracks (s t : State) (evs : List PortEvent) : Prop :=
  match lastRequest evs with
  | none => t.lastAddress = s.lastAddress ∧ t.lastOp = s.lastOp
  | some (op, address) => t.lastAddress = some address ∧ t.lastOp = lastOpOf op

/-! ### The invariant -/

/-- What holds between commands: legal geometry (R22, R26, D42), mirror and mask of the mirror's capacity (R27, R28), no retry
loop open (R35), the debug-bus selector active whenever the geometry is known in a session that has not failed (R31), no
operation recorded without an address (R24), a detached block at its reset values (R54), and an examined session with the
six slots `examine` staged (R193). -/
abbrev State.Inv (s : State) : Prop :=
  s.addressBits.toNat ≤ 16 ∧
  s.scratchSize.toNat ≤ 64 ∧
  s.scratchSize.toNat ≤ s.params.mirrorCapacity ∧
  s.scratchValidMask.length = s.params.mirrorCapacity ∧
  s.scratchMirror.length = s.params.mirrorCapacity ∧
  s.retry = none ∧
  (s.addressBits ≠ 0#8 → s.fault = none → s.irSelect = .dbus) ∧
  (s.lastAddress = none → s.lastOp = .none) ∧
  (s.attached = false →
    s.addressBits = 0#8 ∧ s.lastAddress = none ∧ s.scratchSize = 0#32 ∧ s.examined = false ∧ s.fault = none ∧
    s.irSelect = .unknown ∧ s.lifecycle = .unexamined) ∧
  (s.examined = true → 6 ≤ s.scratchSize.toNat)

/-! ### The environment assumptions (R140)

They are premises over the traffic on the scan port and over a view of the device behind it that the claim quantifies over; no
step of the machine reads it. -/

/-- One data scan with its answer. -/
inductive Exchange where
  | dtmInfo
  | dbus (op : WireOp) (address : DbusAddr) (data : DbusData) (result : ResultCode) (dataIn : DbusData)
  /-- A scan whose flush failed: what the device saw of it is unknown (R63, R222). -/
  | lost
  deriving DecidableEq, Repr

/-- The exchanges recorded on the scan port, oldest first. A scan whose flush failed is one of them, of which the premises say
nothing, so that none binds across it (log 31, DESIGN CHOICE). -/
def traffic : List PortEvent → List Exchange
  | .shift n out :: .flush (.ok v _) :: rest =>
    .dbus (WireOp.ofCode (lowField out)) (addressField out) (dataField out) (responseCode (v % 2 ^ n)) (dataField (v % 2 ^ n))
      :: traffic rest
  | .shift _ _ :: .select .dbus :: .flush (.ok _ _) :: rest => .dtmInfo :: traffic rest
  | .shift _ _ :: .flush .err :: rest => .lost :: traffic rest
  | .shift _ _ :: .select .dbus :: .flush .err :: rest => .lost :: traffic rest
  | _ :: rest => traffic rest
  | [] => []

/-- The device behind the tap at one moment, less its read latch (R51) and its JTAG instruction register (N3): the data a READ of
each address would be given, the two status bits (R47), the busy condition (R53). -/
structure DeviceState where
  content : DbusAddr → DbusData
  haltAck : Bool
  interrupt : Bool
  busy : Bool

/-- The device as a claim sees it: as exchange k finds it, and as that exchange by itself leaves it. From `after k` to
`before (k + 1)` it may change by itself: the target core and the operations behind the bus run on (R63, R72, R175; log 28). -/
structure DeviceView where
  before : Nat → DeviceState
  after : Nat → DeviceState

/-- `A_PIPELINE` (R132): a READ answered other than BUSY has its register's content, as it was when the READ was accepted, in the
next response. What is bound is that response's data where its own result is SUCCESS, NO_WRITE or FAILED, and nothing where it is
BUSY: R132 names no result, R141 and U3 draw the data of all but SUCCESS (log 32, DESIGN CHOICE). Nothing is said where the next
scan is the DTM-info register's (log 27, DESIGN CHOICE) or one whose flush failed (log 31, DESIGN CHOICE). So it never binds
across a session start: `attach` and `detach` forget the width, and before the next debug-bus scan a DTM-info scan, delivered or
failed, must have found it (R54, R190, R191, R22; R141 draws that scan's data). The premise binds across a `device_reset` between
the two scans, which leaves no mark in the traffic (log 30, DESIGN CHOICE): a claim takes it over traffic in which none falls. -/
def APipeline (d : DeviceView) (xs : List Exchange) : Prop :=
  ∀ k address data result dataIn op' address' data' result' dataIn',
    xs[k]? = some (.dbus .read address data result dataIn) → result ≠ .busy →
    xs[k + 1]? = some (.dbus op' address' data' result' dataIn') → result' ≠ .busy →
    dataIn' = (d.before k).content address

/-- `A_WRITE` (R133): a WRITE answered SUCCESS has been taken. What a register takes is the 32-bit word: bits 33:32 of the data are
requests on the way out and status on the way back, not storage (90_conflicts.md, self-review correction 1; log 29). -/
def AWrite (d : DeviceView) (xs : List Exchange) : Prop :=
  ∀ k address data dataIn, xs[k]? = some (.dbus .write address data .success dataIn) →
    ((d.after k).content address).extractLsb' 0 32 = data.extractLsb' 0 32

/-- `A_ADDR0_SAFE` (R64): a READ of address 0 has by itself no effect on the device other than on the read latch. -/
def AAddr0Safe (d : DeviceView) (xs : List Exchange) : Prop :=
  ∀ k data result dataIn, xs[k]? = some (.dbus .read 0#16 data result dataIn) → d.after k = d.before k

/-- `A_DTMINFO_ZERO_SAFE` (R123): the DTM-info scan has by itself no effect on the device other than selecting and reading. -/
def ADtminfoZeroSafe (d : DeviceView) (xs : List Exchange) : Prop :=
  ∀ k, xs[k]? = some .dtmInfo → d.after k = d.before k

/-- `A_STATUS_BITS` (R140): what is read from the control register and from every low register carries the two status bits. -/
def AStatusBits (p : Params) (d : DeviceView) : Prop :=
  ∀ k address, (address < lowRegLimit ∨ address = p.ctrlAddr) →
    ((d.before k).content address).getLsbD haltBit = (d.before k).haltAck ∧
    ((d.before k).content address).getLsbD intBit = (d.before k).interrupt

end Sys2Proof.Machine
end

