-- ==== Sys2Proof/Certificates/Slice0/Obligations.lean ====
section
/-! DEFINITION. Sys2Proof/Certificates/Slice0/Obligations.lean: the statements about the model, from the numbered rules of spec/. Each
is over every state, every parameter and every answer of the environment its hypotheses leave open. -/

open Sys2Proof Sys2Proof.Machine

/-! ### Encoding -/

/-- Every well-formed instruction, encoded and decoded, is itself (R90 to R105). That debug-bus words are read at 52 bits (log
33), jump words in the layout of R103 under every encoder (log 34) and command operands above the code (log 12) is the model's
choice. -/
def Obligations.DecodeEncodeRoundTrip : Prop :=
  ∀ (p : Params) (i : Instr), p.wellFormed = true → i.wellFormed = true → decode p (encode p i) = .ok i

/-- A word that decodes is the encoding of the instruction it decodes to, and that instruction is well-formed: no bit of an
accepted word is dropped. That debug-bus words are read at 52 bits (log 33), jump words in the layout of R103 under every
encoder (log 34) and command operands above the code (log 12) is the model's choice. -/
def Obligations.EncodeDecodeRoundTrip : Prop :=
  ∀ (p : Params) (w : PortWord) (i : Instr), decode p w = .ok i → i.wellFormed = true ∧ encode p i = w

/-- Words written out in the spec decode to what they stand for (R131 to R139, R91, R105, R179). -/
def Obligations.SpecWordsDecode : Prop :=
  decode defaultParams ⟨.dbusReq, 0x11000000001⟩ = .ok (.dbusRead 0x11#16 0#34) ∧
  decode defaultParams ⟨.dbusReq, 0x100000048D2⟩ = .ok (.dbusWrite 0x10#16 0x1234#34) ∧
  decode defaultParams ⟨.dbusReq, 0x02000000017⟩ = .ok (.dbusConditionalWrite 0x02#16 5#34) ∧
  decode defaultParams ⟨.dbusRsp, 0x00000011000⟩ = .ok (.rspSuccess 0#16 0x4400#34) ∧
  decode defaultParams ⟨.dbusRsp, 0x1F000000002⟩ = .ok (.rspFailed 0x1F#16 0#34) ∧
  decode defaultParams ⟨.irsel, 0b10000⟩ = .ok .selectDtminfo ∧
  decode defaultParams ⟨.irsel, 0b10001⟩ = .ok .selectDbus ∧
  decode defaultParams ⟨.cmd, 0b01011⟩ = .ok .poll ∧
  decode defaultParams ⟨.jump, 0x3F00006F⟩ = .ok (.jumpWord 0x3F0#21)

/-- The request vector: op in bits 1:0, data in 35:2, address above, and no bit beyond an address that fits (R96). -/
def Obligations.RequestVectorLayout : Prop :=
  ∀ (op : WireOp) (a : DbusAddr) (d : DbusData) (width : Nat), a.toNat < 2 ^ width →
    assemble op a d % 2 ^ 2 = op.code ∧
    assemble op a d / 2 ^ 2 % 2 ^ 34 = d.toNat ∧
    assemble op a d / 2 ^ 36 = a.toNat ∧
    assemble op a d < 2 ^ (width + 36)

/-- Command codes 16 to 31 are no instruction; the refusal is the model's (log 15, R105, R106). -/
def Obligations.UnassignedCommandIsUndecodable : Prop :=
  ∀ (s : State) (v : Nat) (rest : List PortWord), s.commands = ⟨.cmd, v⟩ :: rest → 16 ≤ v % 32 →
    step s = .refused (.undecodable (.unassignedCommand (v % 32)))

/-! ### The step -/

/-- A step accepts the next word of the command port and runs the instruction it decodes to, on the state whose port holds
the words after it (R36, R40; log 14). -/
def Obligations.StepRunsDecodedInstruction : Prop :=
  ∀ (s : State) (w : PortWord) (rest : List PortWord) (i : Instr),
    s.commands = w :: rest → decode s.params w = .ok i → step s = exec i { s with commands := rest }

/-- With nothing on the command port the block stays idle as it is (R36; the step itself is the model's, log 14). -/
def Obligations.IdleStepChangesNothing : Prop :=
  ∀ s : State, s.commands = [] → step s = .next s

/-- Every instruction answers a next state in every state: `Ok`, `Err` and `Refused` all leave the block ready for the next command.
That a refusal is a next state is the model's reading of R231 and V60-4 against the last sentence of R229 (log 1); what the rows
that are no commands do is the model's too (logs 8, 9, 10, 11). No effect is stated here (R11, R36, R231). -/
def Obligations.EveryInstructionAnswersNext : Prop :=
  ∀ (i : Instr) (s : State), ∃ t, exec i s = .next t

/-! ### Reset and session events -/

/-- Power-on (R54, first column), less the mirror's content, which R54 leaves unspecified. -/
def Obligations.ResetLeavesPowerOnState : Prop :=
  State.reset.attached = false ∧ State.reset.addressBits = 0#8 ∧ State.reset.lastAddress = none ∧
  State.reset.lastOp = .none ∧ State.reset.scratchSize = 0#32 ∧
  State.reset.scratchValidMask = List.replicate State.reset.params.mirrorCapacity false ∧
  State.reset.scratchMirror.length = State.reset.params.mirrorCapacity ∧
  State.reset.examined = false ∧ State.reset.fault = none ∧ State.reset.irSelect = .unknown ∧
  State.reset.lifecycle = .unexamined ∧ State.reset.log = []

/-- The invariant holds at reset. -/
def Obligations.ResetMeetsInvariant : Prop := State.reset.Inv

/-- `attach` and `detach` in any state: every session register at its session-start value, `attached` set or cleared, no scan
and no hook, the log kept (R190, R191, R54). The new mirror words are free values (log 7); only their number is stated. -/
def Obligations.AttachAndDetachStartOver : Prop :=
  ∀ (s : State) (b : Bool), ∃ mirror : List Word, mirror.length = s.params.mirrorCapacity ∧
    exec (if b then .attach else .detach) s = .next { s with
      attached := b, addressBits := 0#8, lastAddress := none, lastOp := .none, scratchSize := 0#32,
      scratchValidMask := List.replicate s.params.mirrorCapacity false, scratchMirror := mirror, examined := false,
      fault := none, irSelect := .unknown, lifecycle := .unexamined, draws := s.draws + 1,
      result := some (.ok .unit) }

/-- A detached block refuses every gated command with `NotAttached` and changes nothing but the answer on the command port
(R21, R231, R234). No retry loop is open between commands (R35). -/
def Obligations.DetachedBlockRefuses : Prop :=
  ∀ (i : Instr) (s : State), gated i = true → s.retry = none → s.attached = false →
    exec i s = .next { s with result := some (.refused .notAttached) }

/-- A failed session refuses every gated command with `SessionFailed`, changing nothing else (R30, R231, R234). -/
def Obligations.FailedSessionRefuses : Prop :=
  ∀ (i : Instr) (s : State) (k : FatalKind), gated i = true → s.retry = none → s.attached = true → s.fault = some k →
    exec i s = .next { s with result := some (.refused (.sessionFailed k)) }

/-- Once recorded, the first fatal kind stays until `attach` or `detach` (R30, R230, R235). -/
def Obligations.FirstFatalKindIsSticky : Prop :=
  ∀ (i : Instr) (s t : State) (k : FatalKind), i ≠ .attach → i ≠ .detach → s.fault = some k → exec i s = .next t →
    t.fault = some k

/-! ### One scan -/

/-- A scan that is answered: one vector out, the cache written, the response's two fields returned; nothing else changes
(R150). NO_WRITE, FAILED and BUSY are returned like SUCCESS. -/
def Obligations.ScanDeliversResponse : Prop :=
  ∀ (s : State) (op : WireOp) (a : DbusAddr) (d : DbusData) (v : Nat) (late : Bool) (rest : List Answer),
    BusReady s a → s.answers = .ok v late :: rest →
    exec (.scan op a d) s = .next { s with
      lastAddress := some a, lastOp := lastOpOf op, scanQueue := [],
      portTrace := s.portTrace ++ [.shift (s.addressBits.toNat + 36) (assemble op a d), .flush (.ok v late)],
      answers := rest, timeoutExpired := late,
      result := some (.ok (.scanned (responseCode (v % 2 ^ (s.addressBits.toNat + 36)))
        (dataField (v % 2 ^ (s.addressBits.toNat + 36))))) }

/-- Each of the four request rows sends its request by one scan (R130 to R134; log 10). That a NOP or READ row whose data is not
zero sends it as given is the model's choice (log 26): R131 and R132 give such a row's data as zero. -/
def Obligations.RequestRowsScan : Prop :=
  ∀ (s : State) (op : WireOp) (a : DbusAddr) (d : DbusData) (v : Nat) (late : Bool) (rest : List Answer),
    BusReady s a → s.answers = .ok v late :: rest →
    exec (requestInstr op a d) s = .next { s with
      lastAddress := some a, lastOp := lastOpOf op, scanQueue := [],
      portTrace := s.portTrace ++ [.shift (s.addressBits.toNat + 36) (assemble op a d), .flush (.ok v late)],
      answers := rest, timeoutExpired := late,
      result := some (.ok (.scanned (responseCode (v % 2 ^ (s.addressBits.toNat + 36)))
        (dataField (v % 2 ^ (s.addressBits.toNat + 36))))) }

/-- A scan whose flush fails, by `scan` or by one of the four request rows (log 10): the cache is written all the same,
`TransportError` is recorded and returned (R130 to R134, R150, R222, D9). That the vector of a NOP or READ whose data is not
zero carries that data as given is the model's choice (log 26): R131 and R132 give it as zero. -/
def Obligations.ScanTransportError : Prop :=
  ∀ (s : State) (i : Instr) (op : WireOp) (a : DbusAddr) (d : DbusData) (rest : List Answer),
    i ∈ [.scan op a d, requestInstr op a d] → BusReady s a → s.answers = .err :: rest →
    exec i s = .next { s with
      lastAddress := some a, lastOp := lastOpOf op, scanQueue := [],
      portTrace := s.portTrace ++ [.shift (s.addressBits.toNat + 36) (assemble op a d), .flush .err],
      answers := rest, timeoutExpired := false, fault := some .transportError,
      result := some (.err .transportError) }

/-- A debug-bus scan before the geometry is known is the fatal assertion, before any range check and with nothing driven, in `scan`
and in every command built on it (R22, R221, R223, R234): every `read` and every write loop a command comes to, of `halt` and `examine`
in the state they had come to. In `examine` it is so where the DTM reports width 0, which is stored first (R123, R193). -/
def Obligations.ScanBeforeGeometryAsserts : Prop :=
  (∀ (s s1 : State) (i : Instr) (op : WireOp) (a : DbusAddr) (d : DbusData),
    (s1 = s ∧ i ∈ [.scan op a d, requestInstr op a d]) ∨ ComesToRead s i s1 a ∨ ComesToWrite s i s1 a d →
    SessionOpen s → SessionOpen s1 → s1.retry = none → s1.addressBits = 0#8 →
    exec i s = .next { s1 with fault := some .assertAddressBits, result := some (.err .assertAddressBits) }) ∧
  ∀ (s : State) (v : Nat) (late : Bool) (rest : List Answer),
    SessionOpen s → s.retry = none → s.examined = false → s.answers = .ok v late :: rest →
    dtmAddressBits s.params (v % 2 ^ 32) = 0 →
    exec .examine s = .next { s.dtmRead v late rest with
      addressBits := 0#8, fault := some .assertAddressBits, result := some (.err .assertAddressBits) }

/-- A request whose address does not fit in `address_bits` bits is refused with `AddressRange`; no scan is issued and no state
changes (R151). A Debug RAM command is refused for its slot's address, a `poll` for the address it polls, `halt` and `examine` for the
slot or register they had come to, in the state they had come to (R231); a read that hits the cache issues no scan to the address. -/
def Obligations.AddressOutOfRangeRefused : Prop :=
  ∀ (s s1 : State) (i : Instr) (op : WireOp) (a : DbusAddr) (d : DbusData),
    (s1 = s ∧ i ∈ [.scan op a d, requestInstr op a d]) ∨ (ComesToRead s i s1 a ∧ cacheHit s1 a = false) ∨
      ComesToWrite s i s1 a d →
    SessionOpen s → SessionOpen s1 → s1.retry = none → s1.addressBits ≠ 0#8 → 2 ^ s1.addressBits.toNat ≤ a.toNat →
    exec i s = .next { s1 with result := some (.refused (.addressRange a)) }

/-- The bits of a response above bit 35 are ignored (R97): two scans answered with vectors that agree below them end in the
same state but for the record of what was shifted in. -/
def Obligations.ScanIgnoresResponseAddress : Prop :=
  ∀ (s : State) (op : WireOp) (a : DbusAddr) (d : DbusData) (v v' : Nat) (late : Bool) (rest : List Answer) (t t' : State),
    v % 2 ^ 36 = v' % 2 ^ 36 → BusReady s a →
    exec (.scan op a d) { s with answers := .ok v late :: rest } = .next t →
    exec (.scan op a d) { s with answers := .ok v' late :: rest } = .next t' →
    t = { t' with portTrace := t.portTrace }

/-- The address cache shows the last debug-bus request driven, whatever command drove it and whatever it was answered, and a
command that drives none leaves it (R25, R39 (b)). -/
def Obligations.CacheTracksEveryScan : Prop :=
  ∀ (i : Instr) (s t : State), i ≠ .attach → i ≠ .detach → exec i s = .next t →
    ∃ evs, t.portTrace = s.portTrace ++ evs ∧ CacheTracks s t evs

/-- No command drives a debug-bus scan of any other width than `address_bits + 36` for a known, nonzero `address_bits`
(R22, R39 (a), R95), and the record and the log are only ever added to (R38). -/
def Obligations.DbusScansNeedGeometry : Prop :=
  ∀ (i : Instr) (s t : State), exec i s = .next t →
    (∃ evs, t.portTrace = s.portTrace ++ evs ∧
      ∀ n out, PortEvent.shift n out ∈ evs → n = 32 ∨ (n = t.addressBits.toNat + 36 ∧ t.addressBits ≠ 0#8)) ∧
    ∃ rs, t.log = s.log ++ rs

/-! ### Retry loops, read and write -/

/-- `write` answered BUSY up to `MAX_RETRIES` times and then otherwise: the identical WRITE once for each answer, one log
record for a terminal NO_WRITE or FAILED, `Ok` with no value (R152, R155, R156). -/
def Obligations.WriteRetriesUntilAccepted : Prop :=
  ∀ (s : State) (a : DbusAddr) (v : DbusData) (bs rest : List Answer) (x : Answer),
    BusReady s a → (∀ b ∈ bs, BusyAnswer s b) → bs.length ≤ s.params.maxRetries → FinalAnswer s x →
    s.answers = bs ++ x :: rest →
    exec (.write a v) s = .next { s.driven .write a v (bs ++ [x]) rest x.late with
      retry := none, log := s.log ++ softLog .write a (answerCode s x), result := some (.ok .unit) }

/-- BUSY to the last permitted scan of a loop, or once the optional time has run out (log 17): `DeviceUnresponsive`, after
`MAX_RETRIES + 1` scans at most. In the write loop of `write`, `write_word` and `write_resume_jump`, in either of the two of `halt` and
in any of the six of `examine`: the word's own mirror word and valid bit are not touched, and nothing more is staged; what `halt` and
`examine` had staged before it stays (R152, R174, R178, R193, R200, R227). In the address phase of `read`, `read_word`, `verify_word`
and `poll`, of `examine`'s read of the info register and of each of its six verifications: the data phase does not run, nothing is
compared and the lifecycle state is not written (R154, R172, R176, R193, R195). A hook's own loops are `HookStopsItsCommand`'s. -/
def Obligations.BusyToTheCeilingIsFatal : Prop :=
  ∀ (s s1 : State) (i : Instr) (a : DbusAddr) (v : DbusData) (bs rest : List Answer) (x : Answer),
    SessionOpen s → BusReady s1 a → GivesUp s1 bs x → s1.answers = bs ++ x :: rest →
    (ComesToWrite s i s1 a v →
      exec i s = .next { s1.driven .write a v (bs ++ [x]) rest x.late with
        retry := none, fault := some (.deviceUnresponsive .write a),
        result := some (.err (.deviceUnresponsive .write a)) }) ∧
    (ComesToRead s i s1 a → cacheHit s1 a = false →
      exec i s = .next { s1.driven .read a 0#34 (bs ++ [x]) rest x.late with
        retry := none, fault := some (.deviceUnresponsive .read a),
        result := some (.err (.deviceUnresponsive .read a)) })

/-- `read`: on a cache miss the address phase, then (on a hit at once) the data phase to address 0, each its own retry loop and
each logging at most once; the value is the last response's data, whatever the first loop ended with (R153, R154, R156). -/
def Obligations.ReadRunsItsPhases : Prop :=
  ∀ (s : State) (a : DbusAddr) (pre bs rest : List Answer) (y : Answer),
    SessionOpen s → s.addressBits ≠ 0#8 → AddressPhaseAnswers s a pre →
    (∀ b ∈ bs, BusyAnswer s b) → bs.length ≤ s.params.maxRetries → FinalAnswer s y →
    s.answers = pre ++ (bs ++ y :: rest) →
    exec (.read a) s = .next { s.readDone a pre bs y rest with
      result := some (.ok (.data ((answerData s y).zeroExtend 64))) }

/-- BUSY to the last permitted scan of the data phase, or once the optional time has run out (log 17): `DeviceUnresponsive` with
address 0, for `read`, `read_word`, `verify_word` and `poll`, for `examine`'s read of the info register and for each of its six
verifications, in the state the command had come to; they make nothing more of the data (R152, R154, R172, R176, R193, R195, R227). -/
def Obligations.BusyDataPhaseIsFatal : Prop :=
  ∀ (s s1 : State) (i : Instr) (a : DbusAddr) (pre bs rest : List Answer) (y : Answer),
    ComesToRead s i s1 a → SessionOpen s → SessionOpen s1 → s1.addressBits ≠ 0#8 → AddressPhaseAnswers s1 a pre →
    GivesUp s1 bs y → s1.answers = pre ++ (bs ++ y :: rest) →
    exec i s = .next { s1.readDone a pre bs y rest with
      fault := some (.deviceUnresponsive .read 0#16),
      result := some (.err (.deviceUnresponsive .read 0#16)) }

/-- A failed flush short-circuits the retry (R152, R222). In the write loop of `write`, `write_word` and `write_resume_jump`, in either
of the two of `halt` and in any of the six of `examine`, the word's own mirror word and valid bit are not touched and nothing more is
staged; what was staged before stays (R174, R178, R193, R200). In the address phase of `read`, `read_word`, `verify_word` and `poll`, of
`examine`'s read of the info register and of each of its six verifications, the data phase does not follow; in their data phase, on a
hit or after an address phase, the cache is left at `(0, Read)`; in both, nothing is compared and the lifecycle state is not written
(R154, R172, R176, R193, R195). A hook's own loops are `HookStopsItsCommand`'s. -/
def Obligations.TransportErrorShortCircuits : Prop :=
  (∀ (s s1 : State) (i : Instr) (a : DbusAddr) (v : DbusData) (bs rest : List Answer),
    SessionOpen s → BusReady s1 a → (∀ b ∈ bs, BusyAnswer s1 b) → bs.length ≤ s1.params.maxRetries →
    s1.answers = bs ++ .err :: rest →
    (ComesToWrite s i s1 a v →
      exec i s = .next { s1.driven .write a v (bs ++ [.err]) rest false with
        retry := none, fault := some .transportError, result := some (.err .transportError) }) ∧
    (ComesToRead s i s1 a → cacheHit s1 a = false →
      exec i s = .next { s1.driven .read a 0#34 (bs ++ [.err]) rest false with
        retry := none, fault := some .transportError, result := some (.err .transportError) })) ∧
  ∀ (s s1 : State) (i : Instr) (a : DbusAddr) (pre bs rest : List Answer),
    ComesToRead s i s1 a → SessionOpen s → SessionOpen s1 → s1.addressBits ≠ 0#8 → AddressPhaseAnswers s1 a pre →
    (∀ b ∈ bs, BusyAnswer s1 b) → bs.length ≤ s1.params.maxRetries → s1.answers = pre ++ (bs ++ .err :: rest) →
    exec i s = .next { s1.readDone a pre bs .err rest with
      fault := some .transportError, result := some (.err .transportError) }

/-- From every state and on every answer, with `L` for `MAX_RETRIES + 1`: a scan or a request row drives at most one data scan,
`read_dtm_info` one, a `write`, `write_word` or `write_resume_jump` L, a `read`, `read_word`, `verify_word` or `poll` 2 L,
`examine` 1 + 20 L, `halt` 2 L and its hook's, `device_reset` its hooks', where a hook's are at most 2 L for each command of its
script; a BUSY response at most `MAX_RETRIES`; every other instruction none (R157, R278). -/
def Obligations.ScansPerCommandAreBounded : Prop :=
  ∀ (i : Instr) (s t : State), exec i s = .next t →
    ∃ evs, t.portTrace = s.portTrace ++ evs ∧ shiftCount evs ≤ scanBound s i

/-! ### Responses -/

/-- With no retry loop open a response is a bare scan's: returned to the caller, whatever its code, and nothing is logged
(R135, R150; log 9). -/
def Obligations.BareResponseIsReturned : Prop :=
  ∀ (s : State) (c : ResultCode) (a : DbusAddr) (d : DbusData), s.retry = none →
    exec (responseInstr c a d) s = .next { s with result := some (.ok (.scanned c d)) }

/-- In an open loop SUCCESS ends it with nothing logged, NO_WRITE and FAILED end it with one log record of the loop's request
(R136, R137, R138, R152). -/
def Obligations.TerminalResponseEndsLoop : Prop :=
  ∀ (s : State) (c : ResultCode) (a : DbusAddr) (d : DbusData) (l : RetryLoop), s.retry = some l → c ≠ .busy →
    exec (responseInstr c a d) s = .next { s with
      retry := none, log := s.log ++ softLog l.op l.address (some c), result := some (.ok (.scanned c d)) }

/-- BUSY in an open loop with scans to spare: the identical request is issued again until the answer is another one, which is
what the loop returns; the BUSY's data is dropped (R139, R152). -/
def Obligations.BusyResponseReissuesRequest : Prop :=
  ∀ (s : State) (a : DbusAddr) (d : DbusData) (l : RetryLoop) (bs rest : List Answer) (x : Answer) (c : ResultCode),
    s.retry = some l → BusReady s l.address → timedOut s = false →
    (∀ b ∈ bs, BusyAnswer s b) → l.retries + bs.length < s.params.maxRetries →
    answerCode s x = some c → c ≠ .busy → s.answers = bs ++ x :: rest →
    exec (.rspBusy a d) s = .next { s.driven l.op l.address l.dataOut (bs ++ [x]) rest x.late with
      retry := none, log := s.log ++ softLog l.op l.address (some c),
      result := some (.ok (.scanned c (answerData s x))) }

/-- BUSY in an open loop at the ceiling, or when the optional time has run out (log 17), raises `DeviceUnresponsive` with the loop's
request, and issues nothing (R152, R227). -/
def Obligations.BusyResponseAtCeilingIsFatal : Prop :=
  ∀ (s : State) (a : DbusAddr) (d : DbusData) (l : RetryLoop),
    s.retry = some l → s.fault = none → (s.params.maxRetries ≤ l.retries ∨ timedOut s = true) →
    exec (.rspBusy a d) s = .next { s with
      retry := none, fault := some (.deviceUnresponsive l.op l.address),
      result := some (.err (.deviceUnresponsive l.op l.address)) }

/-! ### Selectors and the DTM Info Reader -/

/-- The two selector scans are queued and change nothing else (R120, R121; log 11). -/
def Obligations.SelectorsOnlyQueue : Prop :=
  ∀ s : State,
    exec .selectDtminfo s = .next { s with
      scanQueue := s.scanQueue ++ [.select .dtminfo], portTrace := s.portTrace ++ [.select .dtminfo] } ∧
    exec .selectDbus s = .next { s with
      scanQueue := s.scanQueue ++ [.select .dbus], portTrace := s.portTrace ++ [.select .dbus] }

/-- `read_dtm_info` answered: the four calls on the scan port in order, 32 zero bits out, the debug-bus selector restored, the
decoded width stored and returned; the address cache is not touched (R122, R124). A width of 0 is stored as it is (R123). -/
def Obligations.ReadDtmInfoStoresWidth : Prop :=
  ∀ (s : State) (v : Nat) (late : Bool) (rest : List Answer),
    SessionOpen s → s.answers = .ok v late :: rest → dtmAddressBits s.params (v % 2 ^ 32) ≤ 16 →
    exec .readDtmInfo s = .next { s with
      scanQueue := [],
      portTrace := s.portTrace ++ [.select .dtminfo, .shift 32 0, .select .dbus, .flush (.ok v late)],
      answers := rest, timeoutExpired := late, irSelect := .dbus,
      addressBits := BitVec.ofNat 8 (dtmAddressBits s.params (v % 2 ^ 32)),
      result := some (.ok (.addressBits (BitVec.ofNat 8 (dtmAddressBits s.params (v % 2 ^ 32))))) }

/-- `read_dtm_info` with a width above 16 is refused with the selector restored and `address_bits` kept; with a failed flush it
is fatal and the selector unknown (R122, R123, R222). An `examine` of a session not examined, which begins with it, ends the same
way (R193). -/
def Obligations.ReadDtmInfoFailures : Prop :=
  ∀ (s : State) (i : Instr) (rest : List Answer),
    i = .readDtmInfo ∨ (i = .examine ∧ s.examined = false) → SessionOpen s →
    (∀ v late, s.answers = .ok v late :: rest → 16 < dtmAddressBits s.params (v % 2 ^ 32) →
      exec i s = .next { s with
        scanQueue := [],
        portTrace := s.portTrace ++ [.select .dtminfo, .shift 32 0, .select .dbus, .flush (.ok v late)],
        answers := rest, timeoutExpired := late, irSelect := .dbus,
        result := some (.refused (.geometryRange (dtmAddressBits s.params (v % 2 ^ 32)))) }) ∧
    (s.answers = .err :: rest →
      exec i s = .next { s with
        scanQueue := [],
        portTrace := s.portTrace ++ [.select .dtminfo, .shift 32 0, .select .dbus, .flush .err],
        answers := rest, timeoutExpired := false, irSelect := .unknown, fault := some .transportError,
        result := some (.err .transportError) })

/-! ### Debug RAM -/

/-- The mapper: `i` below 16, `0x40 + (i - 16)` from 16 up, and no two indices share an address (R66, R67). -/
def Obligations.MapSplitsInjectively : Prop :=
  (∀ i, i < 16 → mapIndex i = i) ∧ (∀ i, 16 ≤ i → mapIndex i = 0x40 + (i - 16)) ∧
  ∀ i j, mapIndex i = mapIndex j → i = j

/-- An index at or above `scratch_size` is refused by every Debug RAM command, before any scan and with no state changed
(R171); `halt` needs slots 0 and 1 and is refused before its hook runs (R200; what it records: log 16). -/
def Obligations.IndexOutOfRangeRefused : Prop :=
  ∀ (s : State), SessionOpen s →
    (∀ (i : Instr) (index value : Word) (f : Bool),
      i ∈ [.readWord index, .writeWord index value f, .verifyWord index value, .writeResumeJump index f] →
      s.scratchSize ≤ index → exec i s = .next { s with result := some (.refused (.indexRange index)) }) ∧
    (s.scratchSize < 2#32 → exec .halt s = .next { s with result := some (.refused (.indexRange s.scratchSize)) })

/-- The 34 bits a `write_word` sends: the word, the halt-request bit always, the interrupt-request bit as asked (R98). -/
def Obligations.WordDataLayout : Prop :=
  ∀ (value : Word) (f : Bool),
    (wdata value f).extractLsb' 0 32 = value ∧ (wdata value f).getLsbD 32 = true ∧ (wdata value f).getLsbD 33 = f

/-- `write_word`: one WRITE loop to the mapped address with the word and its control bits; the mirror word takes the value and
its valid bit says whether the loop ended with SUCCESS (R174). A front end that then reads the mirror word is given the value after
SUCCESS and, the word holding no value, a fault after NO_WRITE or FAILED (R28; the fault is the model's, log 25). -/
def Obligations.WriteWordSendsAndMirrors : Prop :=
  ∀ (s : State) (index value : Word) (f : Bool) (bs rest : List Answer) (x : Answer),
    SlotReady s index → (∀ b ∈ bs, BusyAnswer s b) → bs.length ≤ s.params.maxRetries → FinalAnswer s x →
    s.answers = bs ++ x :: rest →
    exec (.writeWord index value f) s = .next {
      s.driven .write (slotAddress index) (wdata value f) (bs ++ [x]) rest x.late with
      retry := none, log := s.log ++ softLog .write (slotAddress index) (answerCode s x),
      scratchMirror :=
        if index.toNat < s.params.mirrorCapacity then s.scratchMirror.set index.toNat value else s.scratchMirror,
      scratchValidMask :=
        if index.toNat < s.params.mirrorCapacity then
          s.scratchValidMask.set index.toNat (decide (answerCode s x = some .success))
        else s.scratchValidMask,
      result := some (.ok .unit) } ∧
    (s.scratchMirror.length = s.params.mirrorCapacity → s.scratchValidMask.length = s.params.mirrorCapacity →
      index.toNat < s.params.mirrorCapacity → ∀ t, exec (.writeWord index value f) s = .next t →
      t.readMirror index.toNat =
        if answerCode s x = some .success then .ok value else .error (.mirrorWordHoldsNoValue index.toNat))

/-- `read_word`: the mapped address is read as `read` does, on a cache hit too, and the low 32 bits of the data returned; mirror
and mask are neither read nor written (R172, R180). -/
def Obligations.ReadWordReturnsLowBits : Prop :=
  ∀ (s : State) (index : Word) (pre bs rest : List Answer) (y : Answer),
    SessionOpen s → s.addressBits ≠ 0#8 → index < s.scratchSize → AddressPhaseAnswers s (slotAddress index) pre →
    (∀ b ∈ bs, BusyAnswer s b) → bs.length ≤ s.params.maxRetries → FinalAnswer s y →
    s.answers = pre ++ (bs ++ y :: rest) →
    exec (.readWord index) s = .next { s.readDone (slotAddress index) pre bs y rest with
      result := some (.ok (.word ((answerData s y).extractLsb' 0 32))) }

/-- `verify_word`: it reads as `read_word` does and compares 32-bit words; a mismatch is logged, clears the valid bit and
returns `false`, a match changes nothing more and returns `true` (R176). -/
def Obligations.VerifyWordCompares : Prop :=
  ∀ (s : State) (index expected got : Word) (pre bs rest : List Answer) (y : Answer),
    SessionOpen s → s.addressBits ≠ 0#8 → index < s.scratchSize → AddressPhaseAnswers s (slotAddress index) pre →
    (∀ b ∈ bs, BusyAnswer s b) → bs.length ≤ s.params.maxRetries → FinalAnswer s y →
    s.answers = pre ++ (bs ++ y :: rest) → got = (answerData s y).extractLsb' 0 32 →
    (got = expected → exec (.verifyWord index expected) s = .next {
      s.readDone (slotAddress index) pre bs y rest with result := some (.ok (.bool true)) }) ∧
    (got ≠ expected → exec (.verifyWord index expected) s = .next {
      s.readDone (slotAddress index) pre bs y rest with
      log := (s.readDone (slotAddress index) pre bs y rest).log ++ [.verifyMismatch index expected got],
      scratchValidMask :=
        if index.toNat < s.params.mirrorCapacity then s.scratchValidMask.set index.toNat false else s.scratchValidMask,
      result := some (.ok (.bool false)) })

/-- `write_resume_jump` with a legal offset stages the encoded jump as `write_word` does, at the offset
`RESUME_VECTOR - (SCRATCH_BASE + 4*map(index))` (R178, R102). -/
def Obligations.WriteResumeJumpStagesJump : Prop :=
  ∀ (s : State) (index : Word) (f : Bool) (bs rest : List Answer) (x : Answer) (off : Int),
    off = (s.params.resumeVector.toNat : Int) - (s.params.scratchBase.toNat + 4 * mapIndex index.toNat : Nat) →
    off % 2 = 0 → -(2 ^ 20) ≤ off → off ≤ 2 ^ 20 - 2 →
    SlotReady s index → (∀ b ∈ bs, BusyAnswer s b) → bs.length ≤ s.params.maxRetries → FinalAnswer s x →
    s.answers = bs ++ x :: rest →
    exec (.writeResumeJump index f) s = .next {
      s.driven .write (slotAddress index) (wdata (encodeJump s.params off) f) (bs ++ [x]) rest x.late with
      retry := none, log := s.log ++ softLog .write (slotAddress index) (answerCode s x),
      scratchMirror :=
        if index.toNat < s.params.mirrorCapacity then s.scratchMirror.set index.toNat (encodeJump s.params off)
        else s.scratchMirror,
      scratchValidMask :=
        if index.toNat < s.params.mirrorCapacity then
          s.scratchValidMask.set index.toNat (decide (answerCode s x = some .success))
        else s.scratchValidMask,
      result := some (.ok .unit) }

/-- A jump offset that is odd or out of range is refused with `JumpRange`, with no scan and no state changed
(R102, R178, R231). -/
def Obligations.JumpOutOfRangeRefused : Prop :=
  ∀ (s : State) (index : Word) (f : Bool) (off : Int),
    off = (s.params.resumeVector.toNat : Int) - (s.params.scratchBase.toNat + 4 * mapIndex index.toNat : Nat) →
    (off % 2 = 1 ∨ off < -(2 ^ 20) ∨ 2 ^ 20 - 2 < off) →
    SessionOpen s → index < s.scratchSize →
    exec (.writeResumeJump index f) s = .next { s with result := some (.refused (.jumpRange off)) }

/-- The default jump encoder, field by field, and the spec's worked example (R103). -/
def Obligations.EncodeJumpLayout : Prop :=
  (∀ (p : Params) (off : Int), p.jumpEncoder = .jalX0 →
    (encodeJump p off).extractLsb' 31 1 = (BitVec.ofInt 21 off).extractLsb' 20 1 ∧
    (encodeJump p off).extractLsb' 21 10 = (BitVec.ofInt 21 off).extractLsb' 1 10 ∧
    (encodeJump p off).extractLsb' 20 1 = (BitVec.ofInt 21 off).extractLsb' 11 1 ∧
    (encodeJump p off).extractLsb' 12 8 = (BitVec.ofInt 21 off).extractLsb' 12 8 ∧
    (encodeJump p off).extractLsb' 7 5 = 0b00000#5 ∧
    (encodeJump p off).extractLsb' 0 7 = 0b1101111#7) ∧
  encodeJump defaultParams (jumpOffset defaultParams 5#32) = 0x3F00006F#32

/-- The staged jump word moves the target core's program counter by its signed offset and nothing of the block
(R102, R103; log 8). -/
def Obligations.JumpWordMovesCorePc : Prop :=
  ∀ (s : State) (imm : BitVec 21),
    exec (.jumpWord imm) s = .next { s with corePc := s.corePc + imm.signExtend 32 }

/-- The resume jump staged at a slot, executed at that slot's core address, reaches the resume vector (R178 with R68, R102,
R103; log 8). -/
def Obligations.ResumeJumpReachesVector : Prop :=
  ∀ (s : State) (index : Word), s.params.jumpEncoder = .jalX0 → jumpOffsetLegal (jumpOffset s.params index) = true →
    s.corePc.toNat = slotCoreAddress s.params index →
    ∃ imm, decode s.params ⟨.jump, (resumeJumpWord s.params index).toNat⟩ = .ok (.jumpWord imm) ∧
      exec (.jumpWord imm) s = .next { s with corePc := s.params.resumeVector }

/-! ### Lifecycle -/

/-- The transition table, the same from every old state (R197). -/
def Obligations.TransitionTable : Prop :=
  ∀ old : Lifecycle,
    nextLifecycle old true true = .debugRunning ∧ nextLifecycle old true false = .halted ∧
    nextLifecycle old false true = old ∧ nextLifecycle old false false = .running

/-- The address `poll` reads: the cached one if it is a low register or the control register, else 0 (R196). -/
def Obligations.PollAddressChoice : Prop :=
  ∀ s : State,
    (∀ a, s.lastAddress = some a → (a.toNat < 16 ∨ a = s.params.ctrlAddr) → pollAddress s = a) ∧
    (∀ a, s.lastAddress = some a → ¬ (a.toNat < 16 ∨ a = s.params.ctrlAddr) → pollAddress s = 0#16) ∧
    (s.lastAddress = none → pollAddress s = 0#16)

/-- `poll`: the polled address read as `read` does, on a cache hit too, and the lifecycle state from bits 32 and 33 of the data
(R195 to R198). -/
def Obligations.PollDecodesStatus : Prop :=
  ∀ (s : State) (pre bs rest : List Answer) (y : Answer),
    SessionOpen s → s.addressBits ≠ 0#8 → AddressPhaseAnswers s (pollAddress s) pre →
    (∀ b ∈ bs, BusyAnswer s b) → bs.length ≤ s.params.maxRetries → FinalAnswer s y →
    s.answers = pre ++ (bs ++ y :: rest) →
    exec .poll s = .next { s.readDone (pollAddress s) pre bs y rest with
      lifecycle := nextLifecycle s.lifecycle ((answerData s y).getLsbD 32) ((answerData s y).getLsbD 33),
      result := some (.ok (.lifecycle
        (nextLifecycle s.lifecycle ((answerData s y).getLsbD 32) ((answerData s y).getLsbD 33)))) }

/-- A fatal error inside a hook aborts the hook and the command that called it: the command returns the same error, in the state
the hook had come to (R235, R238). A refusal the hook hands on ends the command the same way (log 4). The three callers of a hook:
`halt` of the pre-halt hook, `device_reset` of the on-reset hook and then, in the state that one left, of the post-reset hook. -/
def Obligations.HookStopsItsCommand : Prop :=
  ∀ (s s0 s1 : State) (i : Instr) (h : HookName), SessionOpen s →
    (i = .halt ∧ h = .preHalt ∧ s0 = s ∧ 2#32 ≤ s.scratchSize) ∨
      (i = .deviceReset ∧ h = .onReset ∧ s0 = { s with
        scratchValidMask := List.replicate s.params.mirrorCapacity false, lifecycle := .unexamined }) ∨
      (i = .deviceReset ∧ h = .postReset ∧ HookRuns .onReset { s with
        scratchValidMask := List.replicate s.params.mirrorCapacity false, lifecycle := .unexamined } s0) →
    s.params.hasHook h = true →
    (∀ k, runHook s0.nextHookScript (s0.enterHook h) = (.err k, s1) →
      exec i s = .next { s1 with result := some (.err k) }) ∧
    (∀ k, runHook s0.nextHookScript (s0.enterHook h) = (.refused k, s1) →
      exec i s = .next { s1 with result := some (.refused k) })

/-- `halt`, once its pre-halt hook has run or there is none: `HALT_INSN` staged at slot 0 without the interrupt bit, the resume
jump at slot 1 with it; nothing verified, the lifecycle state not written (R200, R280). -/
def Obligations.HaltStagesAndTriggers : Prop :=
  ∀ (s s1 : State) (bs bs' rest : List Answer) (x y : Answer),
    SessionOpen s → 2#32 ≤ s.scratchSize → HookRuns .preHalt s s1 → SessionOpen s1 → s1.addressBits ≠ 0#8 →
    jumpOffsetLegal (jumpOffset s.params 1#32) = true →
    (∀ b ∈ bs, BusyAnswer s1 b) → bs.length ≤ s.params.maxRetries → FinalAnswer s1 x →
    (∀ b ∈ bs', BusyAnswer s1 b) → bs'.length ≤ s.params.maxRetries → FinalAnswer s1 y →
    s1.answers = bs ++ x :: (bs' ++ y :: rest) →
    exec .halt s = .next { s1 with
      lastAddress := some 1#16, lastOp := .write, retry := none, scanQueue := [],
      portTrace := s1.portTrace ++ exchanges s1 .write 0#16 (wdata s.params.haltInsn false) (bs ++ [x]) ++
        exchanges s1 .write 1#16 (wdata (resumeJumpWord s.params 1#32) true) (bs' ++ [y]),
      answers := rest, timeoutExpired := y.late,
      log := s1.log ++ softLog .write 0#16 (answerCode s1 x) ++ softLog .write 1#16 (answerCode s1 y),
      scratchMirror := ((s1.writeMirror 0 s.params.haltInsn (decide (answerCode s1 x = some .success))).writeMirror 1
        (resumeJumpWord s.params 1#32) (decide (answerCode s1 y = some .success))).scratchMirror,
      scratchValidMask := ((s1.writeMirror 0 s.params.haltInsn (decide (answerCode s1 x = some .success))).writeMirror 1
        (resumeJumpWord s.params 1#32) (decide (answerCode s1 y = some .success))).scratchValidMask,
      result := some (.ok .unit) }

/-- `assert_reset` and `deassert_reset` in an open session return `Ok` and do nothing (R201, R202). -/
def Obligations.ResetPlaceholdersDoNothing : Prop :=
  ∀ s : State, SessionOpen s →
    exec .assertReset s = .next { s with result := some (.ok .unit) } ∧
    exec .deassertReset s = .next { s with result := some (.ok .unit) }

/-- `device_reset`: the whole valid mask and the lifecycle state are invalidated and nothing else of the session, no scan is
issued; then the hooks that are present run, `on_reset_hook` first (R203, R42). -/
def Obligations.DeviceResetInvalidates : Prop :=
  ∀ s s1 s2 : State, SessionOpen s →
    HookRuns .onReset { s with
      scratchValidMask := List.replicate s.params.mirrorCapacity false, lifecycle := .unexamined } s1 →
    HookRuns .postReset s1 s2 →
    exec .deviceReset s = .next { s2 with result := some (.ok .unit) }

/-- `examine` in an examined session returns at once: no scan, no register changed (R193, R194 (1)). -/
def Obligations.ExamineIsIdempotent : Prop :=
  ∀ s : State, SessionOpen s → s.examined = true → exec .examine s = .next { s with result := some (.ok .unit) }

/-- `examine` without BUSY answers: one DTM-info scan, then exactly the debug-bus requests of R194 in order (twenty, or nineteen
when the cache already shows the info register); the geometry stored, the six words mirrored, `examined` set and the lifecycle
state left alone, whatever the terminal result codes and the words read back (R193, R194, C1, C10). Every terminal NO_WRITE or FAILED
is logged, and each of the six words is compared: one that comes back different is logged as a mismatch; its valid bit is set where
the write ended with SUCCESS and the word came back as written, else clear (R152, R174, R176, V44-5). -/
def Obligations.ExamineStagesProbe : Prop :=
  ∀ (s : State) (v : Nat) (late : Bool) (pre rs rest : List Answer) (y : Answer) (w : Nat) (size : Word) (info : BitVec 64),
    SessionOpen s → s.examined = false →
    s.answers = .ok v late :: (pre ++ y :: (rs ++ rest)) →
    pre.length = (if cacheHit s s.params.infoAddr = true then 0 else 1) → rs.length = 18 →
    (∀ r ∈ pre, FinalAnswer s r) → FinalAnswer s y → (∀ r ∈ rs, FinalAnswer s r) →
    w = dtmAddressBits s.params (v % 2 ^ 32) → w ≤ 16 → 5 < 2 ^ w → s.params.infoAddr.toNat < 2 ^ w →
    info = (answerData s y).zeroExtend 64 → infoAuthType s.params info = 0#2 →
    size = infoScratchSize s.params info → 6 ≤ size.toNat → size.toNat ≤ s.params.mirrorCapacity →
    jumpOffsetLegal (jumpOffset s.params 5#32) = true → s.scratchMirror.length = s.params.mirrorCapacity →
    ∃ t evs, exec .examine s = .next t ∧
      t.result = some (.ok .unit) ∧ t.examined = true ∧ t.fault = none ∧ t.lifecycle = s.lifecycle ∧
      t.irSelect = .dbus ∧ t.addressBits = BitVec.ofNat 8 w ∧ t.scratchSize = size ∧
      t.lastAddress = some 0#16 ∧ t.lastOp = .read ∧ t.answers = rest ∧
      t.portTrace = s.portTrace ++ evs ∧
      shiftsOf evs = (32, 0) :: examineRequests s.params w (cacheHit s s.params.infoAddr) ∧
      t.scratchMirror.take 6 = [s.params.probe.w0, s.params.probe.w1, s.params.probe.w2, s.params.probe.w3,
        s.params.probe.w4, resumeJumpWord s.params 5#32] ∧
      t.scratchMirror.drop 6 = s.scratchMirror.drop 6 ∧
      t.log = s.log ++ softLog .read s.params.infoAddr (endCode s pre) ++ softLog .read 0#16 (answerCode s y) ++
        stagedLog s (examineWords s.params) rs ∧
      (s.scratchValidMask.length = s.params.mirrorCapacity →
        t.scratchValidMask.take 6 = stagedValid s (examineWords s.params) rs ∧
        t.scratchValidMask.drop 6 = s.scratchValidMask.drop 6)

/-- What `examine` makes of the info register: an authenticating module is fatal, before the size is looked at and before anything
is staged; a module larger than the mirror is fatal; the decoded size is 1 to 64, so the zero check never fires. A module of fewer
than six words that the mirror holds: its size is stored, its words are staged and verified, with the log records and valid bits
of `ExamineStagesProbe`, and the index after the last is refused, with no fatal error and the session not examined (R171, R193,
R224, R225, R226, R231, R234, C2, V44-4). Where the `read` of the info register itself fails or is refused, in the state the
DTM-info scan left, `examine` ends as that `read` does (R193, R11). -/
def Obligations.ExamineChecksInfoRegister : Prop :=
  (∀ (s t : State) (v : Nat) (late : Bool) (rest : List Answer),
    SessionOpen s → s.examined = false → s.answers = .ok v late :: rest → dtmAddressBits s.params (v % 2 ^ 32) ≤ 16 →
    exec (.read s.params.infoAddr) (s.dtmRead v late rest) = .next t → (∀ r, t.result ≠ some (.ok r)) →
    exec .examine s = .next t) ∧
  ∀ (s : State) (v : Nat) (late : Bool) (pre : List Answer) (y : Answer) (rest : List Answer) (w : Nat) (info : BitVec 64)
    (k : FatalKind),
    SessionOpen s → s.examined = false → s.answers = .ok v late :: (pre ++ y :: rest) →
    pre.length = (if cacheHit s s.params.infoAddr = true then 0 else 1) → (∀ r ∈ pre, FinalAnswer s r) → FinalAnswer s y →
    w = dtmAddressBits s.params (v % 2 ^ 32) → w ≤ 16 → w ≠ 0 → s.params.infoAddr.toNat < 2 ^ w →
    info = (answerData s y).zeroExtend 64 →
    1 ≤ (infoScratchSize s.params info).toNat ∧ (infoScratchSize s.params info).toNat ≤ 64 ∧
    ((infoAuthType s.params info ≠ 0#2 ∧ k = .authRequired (infoAuthType s.params info)) ∨
      (infoAuthType s.params info = 0#2 ∧ s.params.mirrorCapacity < (infoScratchSize s.params info).toNat ∧
        k = .scratchAllocFail (infoScratchSize s.params info)) →
      ∃ t evs, exec .examine s = .next t ∧ t.result = some (.err k) ∧ t.fault = some k ∧ t.examined = false ∧
        t.scratchSize = s.scratchSize ∧ t.scratchMirror = s.scratchMirror ∧ t.scratchValidMask = s.scratchValidMask ∧
        t.portTrace = s.portTrace ++ evs ∧
        shiftsOf evs = (32, 0) :: (if cacheHit s s.params.infoAddr = true then []
          else [(w + 36, assemble .read s.params.infoAddr 0#34)]) ++ [(w + 36, assemble .read 0#16 0#34)]) ∧
    (∀ (size : Word) (rs more : List Answer),
      size = infoScratchSize s.params info → infoAuthType s.params info = 0#2 → size.toNat < 6 →
      size.toNat ≤ s.params.mirrorCapacity → size.toNat ≤ 2 ^ w → s.scratchMirror.length = s.params.mirrorCapacity →
      rest = rs ++ more → rs.length = 3 * size.toNat → (∀ r ∈ rs, FinalAnswer s r) →
      ∃ t evs, exec .examine s = .next t ∧ t.result = some (.refused (.indexRange size)) ∧ t.fault = none ∧
        t.examined = false ∧ t.scratchSize = size ∧ t.lifecycle = s.lifecycle ∧ t.answers = more ∧
        t.scratchMirror.take size.toNat = [s.params.probe.w0, s.params.probe.w1, s.params.probe.w2, s.params.probe.w3,
          s.params.probe.w4].take size.toNat ∧
        t.scratchMirror.drop size.toNat = s.scratchMirror.drop size.toNat ∧
        t.log = s.log ++ softLog .read s.params.infoAddr (endCode s pre) ++ softLog .read 0#16 (answerCode s y) ++
          stagedLog s ((examineWords s.params).take size.toNat) rs ∧
        (s.scratchValidMask.length = s.params.mirrorCapacity →
          t.scratchValidMask.take size.toNat = stagedValid s ((examineWords s.params).take size.toNat) rs ∧
          t.scratchValidMask.drop size.toNat = s.scratchValidMask.drop size.toNat) ∧
        t.portTrace = s.portTrace ++ evs ∧
        shiftsOf evs = ((32, 0) :: examineRequests s.params w (cacheHit s s.params.infoAddr)).take
          ((if cacheHit s s.params.infoAddr = true then 2 else 3) + 3 * size.toNat))

/-! ### The whole machine -/

/-- Every step keeps the invariant, from every state that meets it, on every answer and for every hook behaviour
(R22, R26, R31, R35, R39). -/
def Obligations.StepKeepsInvariant : Prop :=
  ∀ s t : State, s.Inv → step s = .next t → t.Inv

/-- Which instructions write which registers: the lifecycle state only `poll`, `device_reset`, `attach`, `detach` (R32); the
geometry and selector only `read_dtm_info`, `examine` and the session events (R22, R31); the Debug RAM size and `examined` only
`examine` and the session events (R26, R29); `attached` only the session events (R21); the target core's program counter only
the jump word (log 8); the mirror only the word writes, the commands made of them or running hooks, and the session events (R28), the
valid mask only these and `verify_word` (R27); the parameters and the command port none. And a command that fails or is refused does
not write what it would have written at its end: the word commands neither mirror nor mask (R174, R176, R178), `poll` no lifecycle
state (R195), `read_dtm_info` no geometry (R122), `examine` not `examined` (R193). -/
def Obligations.RegistersHaveTheirWriters : Prop :=
  ∀ (i : Instr) (s t : State), exec i s = .next t →
    (i ∉ [.poll, .deviceReset, .attach, .detach] → t.lifecycle = s.lifecycle) ∧
    (i ∉ [.readDtmInfo, .examine, .attach, .detach] → t.addressBits = s.addressBits ∧ t.irSelect = s.irSelect) ∧
    (i ∉ [.examine, .attach, .detach] → t.scratchSize = s.scratchSize ∧ t.examined = s.examined) ∧
    (i ∉ [.attach, .detach] → t.attached = s.attached) ∧
    ((∀ imm, i ≠ .jumpWord imm) → t.corePc = s.corePc) ∧
    (writesMirror i = false → t.scratchMirror = s.scratchMirror) ∧
    (writesMirror i = false → (∀ index expected, i ≠ .verifyWord index expected) →
      t.scratchValidMask = s.scratchValidMask) ∧
    t.params = s.params ∧ t.commands = s.commands ∧
    ((∀ r, t.result ≠ some (.ok r)) →
      (∀ (index value : Word) (f : Bool),
        i ∈ [.writeWord index value f, .writeResumeJump index f, .verifyWord index value] →
        t.scratchMirror = s.scratchMirror ∧ t.scratchValidMask = s.scratchValidMask) ∧
      (i = .poll → t.lifecycle = s.lifecycle) ∧
      (i = .readDtmInfo → t.addressBits = s.addressBits) ∧
      (i = .examine → t.examined = s.examined))

/-- Under the environment assumption `A_PIPELINE`, a `read` of A on a cache miss, its two scans answered other than BUSY,
returns what register A held when its READ was accepted (R132, R154 (7), R140). That the premise binds the data of a second
answer that is NO_WRITE or FAILED is the model's choice (log 32). -/
def Obligations.ReadReturnsRegisterUnderPipeline : Prop :=
  ∀ (s t : State) (a : DbusAddr) (x y : Answer) (rest : List Answer) (d : DeviceView),
    BusReady s a → cacheHit s a = false → FinalAnswer s x → FinalAnswer s y → s.answers = x :: y :: rest →
    exec (.read a) s = .next t → APipeline d (traffic (t.portTrace.drop s.portTrace.length)) →
    t.result = some (.ok (.data (((d.before 0).content a).zeroExtend 64)))

/-- Under `A_PIPELINE` and `A_STATUS_BITS`, a `poll` on a cache miss, its two scans answered other than BUSY, derives the
lifecycle state from the device's own status bits when its READ was accepted (R140, R195, R196, R197). That the premise binds
the data of a second answer that is NO_WRITE or FAILED is the model's choice (log 32). -/
def Obligations.PollSeesDeviceStatus : Prop :=
  ∀ (s t : State) (x y : Answer) (rest : List Answer) (d : DeviceView),
    BusReady s (pollAddress s) → cacheHit s (pollAddress s) = false → FinalAnswer s x → FinalAnswer s y →
    s.answers = x :: y :: rest → exec .poll s = .next t →
    APipeline d (traffic (t.portTrace.drop s.portTrace.length)) → AStatusBits s.params d →
    t.lifecycle = nextLifecycle s.lifecycle (d.before 0).haltAck (d.before 0).interrupt
end

