-- ==== Sys2Proof/Laws/State.lean ====
section
/-! SUPPORT. Sys2Proof/Laws/State.lean: one lemma per field per update of Machine/Ops.lean, each true by unfolding, so that no
later proof opens a record update. -/

namespace Sys2Proof.Machine

/-! ### cacheRequest -/

@[simp] theorem State.cacheRequest_params (s : State) (op : WireOp) (a : DbusAddr) :
    (s.cacheRequest op a).params = s.params := rfl
@[simp] theorem State.cacheRequest_attached (s : State) (op : WireOp) (a : DbusAddr) :
    (s.cacheRequest op a).attached = s.attached := rfl
@[simp] theorem State.cacheRequest_addressBits (s : State) (op : WireOp) (a : DbusAddr) :
    (s.cacheRequest op a).addressBits = s.addressBits := rfl
@[simp] theorem State.cacheRequest_lastAddress (s : State) (op : WireOp) (a : DbusAddr) :
    (s.cacheRequest op a).lastAddress = some a := rfl
@[simp] theorem State.cacheRequest_lastOp (s : State) (op : WireOp) (a : DbusAddr) :
    (s.cacheRequest op a).lastOp = lastOpOf op := rfl
@[simp] theorem State.cacheRequest_scratchSize (s : State) (op : WireOp) (a : DbusAddr) :
    (s.cacheRequest op a).scratchSize = s.scratchSize := rfl
@[simp] theorem State.cacheRequest_scratchValidMask (s : State) (op : WireOp) (a : DbusAddr) :
    (s.cacheRequest op a).scratchValidMask = s.scratchValidMask := rfl
@[simp] theorem State.cacheRequest_scratchMirror (s : State) (op : WireOp) (a : DbusAddr) :
    (s.cacheRequest op a).scratchMirror = s.scratchMirror := rfl
@[simp] theorem State.cacheRequest_examined (s : State) (op : WireOp) (a : DbusAddr) :
    (s.cacheRequest op a).examined = s.examined := rfl
@[simp] theorem State.cacheRequest_fault (s : State) (op : WireOp) (a : DbusAddr) :
    (s.cacheRequest op a).fault = s.fault := rfl
@[simp] theorem State.cacheRequest_irSelect (s : State) (op : WireOp) (a : DbusAddr) :
    (s.cacheRequest op a).irSelect = s.irSelect := rfl
@[simp] theorem State.cacheRequest_lifecycle (s : State) (op : WireOp) (a : DbusAddr) :
    (s.cacheRequest op a).lifecycle = s.lifecycle := rfl
@[simp] theorem State.cacheRequest_retry (s : State) (op : WireOp) (a : DbusAddr) :
    (s.cacheRequest op a).retry = s.retry := rfl
@[simp] theorem State.cacheRequest_scanQueue (s : State) (op : WireOp) (a : DbusAddr) :
    (s.cacheRequest op a).scanQueue = s.scanQueue := rfl
@[simp] theorem State.cacheRequest_log (s : State) (op : WireOp) (a : DbusAddr) :
    (s.cacheRequest op a).log = s.log := rfl
@[simp] theorem State.cacheRequest_portTrace (s : State) (op : WireOp) (a : DbusAddr) :
    (s.cacheRequest op a).portTrace = s.portTrace := rfl
@[simp] theorem State.cacheRequest_result (s : State) (op : WireOp) (a : DbusAddr) :
    (s.cacheRequest op a).result = s.result := rfl
@[simp] theorem State.cacheRequest_commands (s : State) (op : WireOp) (a : DbusAddr) :
    (s.cacheRequest op a).commands = s.commands := rfl
@[simp] theorem State.cacheRequest_answers (s : State) (op : WireOp) (a : DbusAddr) :
    (s.cacheRequest op a).answers = s.answers := rfl
@[simp] theorem State.cacheRequest_hookScripts (s : State) (op : WireOp) (a : DbusAddr) :
    (s.cacheRequest op a).hookScripts = s.hookScripts := rfl
@[simp] theorem State.cacheRequest_timeoutExpired (s : State) (op : WireOp) (a : DbusAddr) :
    (s.cacheRequest op a).timeoutExpired = s.timeoutExpired := rfl
@[simp] theorem State.cacheRequest_draws (s : State) (op : WireOp) (a : DbusAddr) :
    (s.cacheRequest op a).draws = s.draws := rfl
@[simp] theorem State.cacheRequest_corePc (s : State) (op : WireOp) (a : DbusAddr) :
    (s.cacheRequest op a).corePc = s.corePc := rfl

/-! ### setAddressBits -/

@[simp] theorem State.setAddressBits_params (s : State) (w : BitVec 8) :
    (s.setAddressBits w).params = s.params := rfl
@[simp] theorem State.setAddressBits_attached (s : State) (w : BitVec 8) :
    (s.setAddressBits w).attached = s.attached := rfl
@[simp] theorem State.setAddressBits_addressBits (s : State) (w : BitVec 8) :
    (s.setAddressBits w).addressBits = w := rfl
@[simp] theorem State.setAddressBits_lastAddress (s : State) (w : BitVec 8) :
    (s.setAddressBits w).lastAddress = s.lastAddress := rfl
@[simp] theorem State.setAddressBits_lastOp (s : State) (w : BitVec 8) :
    (s.setAddressBits w).lastOp = s.lastOp := rfl
@[simp] theorem State.setAddressBits_scratchSize (s : State) (w : BitVec 8) :
    (s.setAddressBits w).scratchSize = s.scratchSize := rfl
@[simp] theorem State.setAddressBits_scratchValidMask (s : State) (w : BitVec 8) :
    (s.setAddressBits w).scratchValidMask = s.scratchValidMask := rfl
@[simp] theorem State.setAddressBits_scratchMirror (s : State) (w : BitVec 8) :
    (s.setAddressBits w).scratchMirror = s.scratchMirror := rfl
@[simp] theorem State.setAddressBits_examined (s : State) (w : BitVec 8) :
    (s.setAddressBits w).examined = s.examined := rfl
@[simp] theorem State.setAddressBits_fault (s : State) (w : BitVec 8) :
    (s.setAddressBits w).fault = s.fault := rfl
@[simp] theorem State.setAddressBits_irSelect (s : State) (w : BitVec 8) :
    (s.setAddressBits w).irSelect = s.irSelect := rfl
@[simp] theorem State.setAddressBits_lifecycle (s : State) (w : BitVec 8) :
    (s.setAddressBits w).lifecycle = s.lifecycle := rfl
@[simp] theorem State.setAddressBits_retry (s : State) (w : BitVec 8) :
    (s.setAddressBits w).retry = s.retry := rfl
@[simp] theorem State.setAddressBits_scanQueue (s : State) (w : BitVec 8) :
    (s.setAddressBits w).scanQueue = s.scanQueue := rfl
@[simp] theorem State.setAddressBits_log (s : State) (w : BitVec 8) :
    (s.setAddressBits w).log = s.log := rfl
@[simp] theorem State.setAddressBits_portTrace (s : State) (w : BitVec 8) :
    (s.setAddressBits w).portTrace = s.portTrace := rfl
@[simp] theorem State.setAddressBits_result (s : State) (w : BitVec 8) :
    (s.setAddressBits w).result = s.result := rfl
@[simp] theorem State.setAddressBits_commands (s : State) (w : BitVec 8) :
    (s.setAddressBits w).commands = s.commands := rfl
@[simp] theorem State.setAddressBits_answers (s : State) (w : BitVec 8) :
    (s.setAddressBits w).answers = s.answers := rfl
@[simp] theorem State.setAddressBits_hookScripts (s : State) (w : BitVec 8) :
    (s.setAddressBits w).hookScripts = s.hookScripts := rfl
@[simp] theorem State.setAddressBits_timeoutExpired (s : State) (w : BitVec 8) :
    (s.setAddressBits w).timeoutExpired = s.timeoutExpired := rfl
@[simp] theorem State.setAddressBits_draws (s : State) (w : BitVec 8) :
    (s.setAddressBits w).draws = s.draws := rfl
@[simp] theorem State.setAddressBits_corePc (s : State) (w : BitVec 8) :
    (s.setAddressBits w).corePc = s.corePc := rfl

/-! ### setIrSelect -/

@[simp] theorem State.setIrSelect_params (s : State) (r : IrSelect) :
    (s.setIrSelect r).params = s.params := rfl
@[simp] theorem State.setIrSelect_attached (s : State) (r : IrSelect) :
    (s.setIrSelect r).attached = s.attached := rfl
@[simp] theorem State.setIrSelect_addressBits (s : State) (r : IrSelect) :
    (s.setIrSelect r).addressBits = s.addressBits := rfl
@[simp] theorem State.setIrSelect_lastAddress (s : State) (r : IrSelect) :
    (s.setIrSelect r).lastAddress = s.lastAddress := rfl
@[simp] theorem State.setIrSelect_lastOp (s : State) (r : IrSelect) :
    (s.setIrSelect r).lastOp = s.lastOp := rfl
@[simp] theorem State.setIrSelect_scratchSize (s : State) (r : IrSelect) :
    (s.setIrSelect r).scratchSize = s.scratchSize := rfl
@[simp] theorem State.setIrSelect_scratchValidMask (s : State) (r : IrSelect) :
    (s.setIrSelect r).scratchValidMask = s.scratchValidMask := rfl
@[simp] theorem State.setIrSelect_scratchMirror (s : State) (r : IrSelect) :
    (s.setIrSelect r).scratchMirror = s.scratchMirror := rfl
@[simp] theorem State.setIrSelect_examined (s : State) (r : IrSelect) :
    (s.setIrSelect r).examined = s.examined := rfl
@[simp] theorem State.setIrSelect_fault (s : State) (r : IrSelect) :
    (s.setIrSelect r).fault = s.fault := rfl
@[simp] theorem State.setIrSelect_irSelect (s : State) (r : IrSelect) :
    (s.setIrSelect r).irSelect = r := rfl
@[simp] theorem State.setIrSelect_lifecycle (s : State) (r : IrSelect) :
    (s.setIrSelect r).lifecycle = s.lifecycle := rfl
@[simp] theorem State.setIrSelect_retry (s : State) (r : IrSelect) :
    (s.setIrSelect r).retry = s.retry := rfl
@[simp] theorem State.setIrSelect_scanQueue (s : State) (r : IrSelect) :
    (s.setIrSelect r).scanQueue = s.scanQueue := rfl
@[simp] theorem State.setIrSelect_log (s : State) (r : IrSelect) :
    (s.setIrSelect r).log = s.log := rfl
@[simp] theorem State.setIrSelect_portTrace (s : State) (r : IrSelect) :
    (s.setIrSelect r).portTrace = s.portTrace := rfl
@[simp] theorem State.setIrSelect_result (s : State) (r : IrSelect) :
    (s.setIrSelect r).result = s.result := rfl
@[simp] theorem State.setIrSelect_commands (s : State) (r : IrSelect) :
    (s.setIrSelect r).commands = s.commands := rfl
@[simp] theorem State.setIrSelect_answers (s : State) (r : IrSelect) :
    (s.setIrSelect r).answers = s.answers := rfl
@[simp] theorem State.setIrSelect_hookScripts (s : State) (r : IrSelect) :
    (s.setIrSelect r).hookScripts = s.hookScripts := rfl
@[simp] theorem State.setIrSelect_timeoutExpired (s : State) (r : IrSelect) :
    (s.setIrSelect r).timeoutExpired = s.timeoutExpired := rfl
@[simp] theorem State.setIrSelect_draws (s : State) (r : IrSelect) :
    (s.setIrSelect r).draws = s.draws := rfl
@[simp] theorem State.setIrSelect_corePc (s : State) (r : IrSelect) :
    (s.setIrSelect r).corePc = s.corePc := rfl

/-! ### setScratchSize -/

@[simp] theorem State.setScratchSize_params (s : State) (n : Word) :
    (s.setScratchSize n).params = s.params := rfl
@[simp] theorem State.setScratchSize_attached (s : State) (n : Word) :
    (s.setScratchSize n).attached = s.attached := rfl
@[simp] theorem State.setScratchSize_addressBits (s : State) (n : Word) :
    (s.setScratchSize n).addressBits = s.addressBits := rfl
@[simp] theorem State.setScratchSize_lastAddress (s : State) (n : Word) :
    (s.setScratchSize n).lastAddress = s.lastAddress := rfl
@[simp] theorem State.setScratchSize_lastOp (s : State) (n : Word) :
    (s.setScratchSize n).lastOp = s.lastOp := rfl
@[simp] theorem State.setScratchSize_scratchSize (s : State) (n : Word) :
    (s.setScratchSize n).scratchSize = n := rfl
@[simp] theorem State.setScratchSize_scratchValidMask (s : State) (n : Word) :
    (s.setScratchSize n).scratchValidMask = s.scratchValidMask := rfl
@[simp] theorem State.setScratchSize_scratchMirror (s : State) (n : Word) :
    (s.setScratchSize n).scratchMirror = s.scratchMirror := rfl
@[simp] theorem State.setScratchSize_examined (s : State) (n : Word) :
    (s.setScratchSize n).examined = s.examined := rfl
@[simp] theorem State.setScratchSize_fault (s : State) (n : Word) :
    (s.setScratchSize n).fault = s.fault := rfl
@[simp] theorem State.setScratchSize_irSelect (s : State) (n : Word) :
    (s.setScratchSize n).irSelect = s.irSelect := rfl
@[simp] theorem State.setScratchSize_lifecycle (s : State) (n : Word) :
    (s.setScratchSize n).lifecycle = s.lifecycle := rfl
@[simp] theorem State.setScratchSize_retry (s : State) (n : Word) :
    (s.setScratchSize n).retry = s.retry := rfl
@[simp] theorem State.setScratchSize_scanQueue (s : State) (n : Word) :
    (s.setScratchSize n).scanQueue = s.scanQueue := rfl
@[simp] theorem State.setScratchSize_log (s : State) (n : Word) :
    (s.setScratchSize n).log = s.log := rfl
@[simp] theorem State.setScratchSize_portTrace (s : State) (n : Word) :
    (s.setScratchSize n).portTrace = s.portTrace := rfl
@[simp] theorem State.setScratchSize_result (s : State) (n : Word) :
    (s.setScratchSize n).result = s.result := rfl
@[simp] theorem State.setScratchSize_commands (s : State) (n : Word) :
    (s.setScratchSize n).commands = s.commands := rfl
@[simp] theorem State.setScratchSize_answers (s : State) (n : Word) :
    (s.setScratchSize n).answers = s.answers := rfl
@[simp] theorem State.setScratchSize_hookScripts (s : State) (n : Word) :
    (s.setScratchSize n).hookScripts = s.hookScripts := rfl
@[simp] theorem State.setScratchSize_timeoutExpired (s : State) (n : Word) :
    (s.setScratchSize n).timeoutExpired = s.timeoutExpired := rfl
@[simp] theorem State.setScratchSize_draws (s : State) (n : Word) :
    (s.setScratchSize n).draws = s.draws := rfl
@[simp] theorem State.setScratchSize_corePc (s : State) (n : Word) :
    (s.setScratchSize n).corePc = s.corePc := rfl

/-! ### setExamined -/

@[simp] theorem State.setExamined_params (s : State) :
    (s.setExamined).params = s.params := rfl
@[simp] theorem State.setExamined_attached (s : State) :
    (s.setExamined).attached = s.attached := rfl
@[simp] theorem State.setExamined_addressBits (s : State) :
    (s.setExamined).addressBits = s.addressBits := rfl
@[simp] theorem State.setExamined_lastAddress (s : State) :
    (s.setExamined).lastAddress = s.lastAddress := rfl
@[simp] theorem State.setExamined_lastOp (s : State) :
    (s.setExamined).lastOp = s.lastOp := rfl
@[simp] theorem State.setExamined_scratchSize (s : State) :
    (s.setExamined).scratchSize = s.scratchSize := rfl
@[simp] theorem State.setExamined_scratchValidMask (s : State) :
    (s.setExamined).scratchValidMask = s.scratchValidMask := rfl
@[simp] theorem State.setExamined_scratchMirror (s : State) :
    (s.setExamined).scratchMirror = s.scratchMirror := rfl
@[simp] theorem State.setExamined_examined (s : State) :
    (s.setExamined).examined = true := rfl
@[simp] theorem State.setExamined_fault (s : State) :
    (s.setExamined).fault = s.fault := rfl
@[simp] theorem State.setExamined_irSelect (s : State) :
    (s.setExamined).irSelect = s.irSelect := rfl
@[simp] theorem State.setExamined_lifecycle (s : State) :
    (s.setExamined).lifecycle = s.lifecycle := rfl
@[simp] theorem State.setExamined_retry (s : State) :
    (s.setExamined).retry = s.retry := rfl
@[simp] theorem State.setExamined_scanQueue (s : State) :
    (s.setExamined).scanQueue = s.scanQueue := rfl
@[simp] theorem State.setExamined_log (s : State) :
    (s.setExamined).log = s.log := rfl
@[simp] theorem State.setExamined_portTrace (s : State) :
    (s.setExamined).portTrace = s.portTrace := rfl
@[simp] theorem State.setExamined_result (s : State) :
    (s.setExamined).result = s.result := rfl
@[simp] theorem State.setExamined_commands (s : State) :
    (s.setExamined).commands = s.commands := rfl
@[simp] theorem State.setExamined_answers (s : State) :
    (s.setExamined).answers = s.answers := rfl
@[simp] theorem State.setExamined_hookScripts (s : State) :
    (s.setExamined).hookScripts = s.hookScripts := rfl
@[simp] theorem State.setExamined_timeoutExpired (s : State) :
    (s.setExamined).timeoutExpired = s.timeoutExpired := rfl
@[simp] theorem State.setExamined_draws (s : State) :
    (s.setExamined).draws = s.draws := rfl
@[simp] theorem State.setExamined_corePc (s : State) :
    (s.setExamined).corePc = s.corePc := rfl

/-! ### setLifecycle -/

@[simp] theorem State.setLifecycle_params (s : State) (l : Lifecycle) :
    (s.setLifecycle l).params = s.params := rfl
@[simp] theorem State.setLifecycle_attached (s : State) (l : Lifecycle) :
    (s.setLifecycle l).attached = s.attached := rfl
@[simp] theorem State.setLifecycle_addressBits (s : State) (l : Lifecycle) :
    (s.setLifecycle l).addressBits = s.addressBits := rfl
@[simp] theorem State.setLifecycle_lastAddress (s : State) (l : Lifecycle) :
    (s.setLifecycle l).lastAddress = s.lastAddress := rfl
@[simp] theorem State.setLifecycle_lastOp (s : State) (l : Lifecycle) :
    (s.setLifecycle l).lastOp = s.lastOp := rfl
@[simp] theorem State.setLifecycle_scratchSize (s : State) (l : Lifecycle) :
    (s.setLifecycle l).scratchSize = s.scratchSize := rfl
@[simp] theorem State.setLifecycle_scratchValidMask (s : State) (l : Lifecycle) :
    (s.setLifecycle l).scratchValidMask = s.scratchValidMask := rfl
@[simp] theorem State.setLifecycle_scratchMirror (s : State) (l : Lifecycle) :
    (s.setLifecycle l).scratchMirror = s.scratchMirror := rfl
@[simp] theorem State.setLifecycle_examined (s : State) (l : Lifecycle) :
    (s.setLifecycle l).examined = s.examined := rfl
@[simp] theorem State.setLifecycle_fault (s : State) (l : Lifecycle) :
    (s.setLifecycle l).fault = s.fault := rfl
@[simp] theorem State.setLifecycle_irSelect (s : State) (l : Lifecycle) :
    (s.setLifecycle l).irSelect = s.irSelect := rfl
@[simp] theorem State.setLifecycle_lifecycle (s : State) (l : Lifecycle) :
    (s.setLifecycle l).lifecycle = l := rfl
@[simp] theorem State.setLifecycle_retry (s : State) (l : Lifecycle) :
    (s.setLifecycle l).retry = s.retry := rfl
@[simp] theorem State.setLifecycle_scanQueue (s : State) (l : Lifecycle) :
    (s.setLifecycle l).scanQueue = s.scanQueue := rfl
@[simp] theorem State.setLifecycle_log (s : State) (l : Lifecycle) :
    (s.setLifecycle l).log = s.log := rfl
@[simp] theorem State.setLifecycle_portTrace (s : State) (l : Lifecycle) :
    (s.setLifecycle l).portTrace = s.portTrace := rfl
@[simp] theorem State.setLifecycle_result (s : State) (l : Lifecycle) :
    (s.setLifecycle l).result = s.result := rfl
@[simp] theorem State.setLifecycle_commands (s : State) (l : Lifecycle) :
    (s.setLifecycle l).commands = s.commands := rfl
@[simp] theorem State.setLifecycle_answers (s : State) (l : Lifecycle) :
    (s.setLifecycle l).answers = s.answers := rfl
@[simp] theorem State.setLifecycle_hookScripts (s : State) (l : Lifecycle) :
    (s.setLifecycle l).hookScripts = s.hookScripts := rfl
@[simp] theorem State.setLifecycle_timeoutExpired (s : State) (l : Lifecycle) :
    (s.setLifecycle l).timeoutExpired = s.timeoutExpired := rfl
@[simp] theorem State.setLifecycle_draws (s : State) (l : Lifecycle) :
    (s.setLifecycle l).draws = s.draws := rfl
@[simp] theorem State.setLifecycle_corePc (s : State) (l : Lifecycle) :
    (s.setLifecycle l).corePc = s.corePc := rfl

/-! ### setRetry -/

@[simp] theorem State.setRetry_params (s : State) (r : Option RetryLoop) :
    (s.setRetry r).params = s.params := rfl
@[simp] theorem State.setRetry_attached (s : State) (r : Option RetryLoop) :
    (s.setRetry r).attached = s.attached := rfl
@[simp] theorem State.setRetry_addressBits (s : State) (r : Option RetryLoop) :
    (s.setRetry r).addressBits = s.addressBits := rfl
@[simp] theorem State.setRetry_lastAddress (s : State) (r : Option RetryLoop) :
    (s.setRetry r).lastAddress = s.lastAddress := rfl
@[simp] theorem State.setRetry_lastOp (s : State) (r : Option RetryLoop) :
    (s.setRetry r).lastOp = s.lastOp := rfl
@[simp] theorem State.setRetry_scratchSize (s : State) (r : Option RetryLoop) :
    (s.setRetry r).scratchSize = s.scratchSize := rfl
@[simp] theorem State.setRetry_scratchValidMask (s : State) (r : Option RetryLoop) :
    (s.setRetry r).scratchValidMask = s.scratchValidMask := rfl
@[simp] theorem State.setRetry_scratchMirror (s : State) (r : Option RetryLoop) :
    (s.setRetry r).scratchMirror = s.scratchMirror := rfl
@[simp] theorem State.setRetry_examined (s : State) (r : Option RetryLoop) :
    (s.setRetry r).examined = s.examined := rfl
@[simp] theorem State.setRetry_fault (s : State) (r : Option RetryLoop) :
    (s.setRetry r).fault = s.fault := rfl
@[simp] theorem State.setRetry_irSelect (s : State) (r : Option RetryLoop) :
    (s.setRetry r).irSelect = s.irSelect := rfl
@[simp] theorem State.setRetry_lifecycle (s : State) (r : Option RetryLoop) :
    (s.setRetry r).lifecycle = s.lifecycle := rfl
@[simp] theorem State.setRetry_retry (s : State) (r : Option RetryLoop) :
    (s.setRetry r).retry = r := rfl
@[simp] theorem State.setRetry_scanQueue (s : State) (r : Option RetryLoop) :
    (s.setRetry r).scanQueue = s.scanQueue := rfl
@[simp] theorem State.setRetry_log (s : State) (r : Option RetryLoop) :
    (s.setRetry r).log = s.log := rfl
@[simp] theorem State.setRetry_portTrace (s : State) (r : Option RetryLoop) :
    (s.setRetry r).portTrace = s.portTrace := rfl
@[simp] theorem State.setRetry_result (s : State) (r : Option RetryLoop) :
    (s.setRetry r).result = s.result := rfl
@[simp] theorem State.setRetry_commands (s : State) (r : Option RetryLoop) :
    (s.setRetry r).commands = s.commands := rfl
@[simp] theorem State.setRetry_answers (s : State) (r : Option RetryLoop) :
    (s.setRetry r).answers = s.answers := rfl
@[simp] theorem State.setRetry_hookScripts (s : State) (r : Option RetryLoop) :
    (s.setRetry r).hookScripts = s.hookScripts := rfl
@[simp] theorem State.setRetry_timeoutExpired (s : State) (r : Option RetryLoop) :
    (s.setRetry r).timeoutExpired = s.timeoutExpired := rfl
@[simp] theorem State.setRetry_draws (s : State) (r : Option RetryLoop) :
    (s.setRetry r).draws = s.draws := rfl
@[simp] theorem State.setRetry_corePc (s : State) (r : Option RetryLoop) :
    (s.setRetry r).corePc = s.corePc := rfl

/-! ### setResult -/

@[simp] theorem State.setResult_params (s : State) (r : CmdResult) :
    (s.setResult r).params = s.params := rfl
@[simp] theorem State.setResult_attached (s : State) (r : CmdResult) :
    (s.setResult r).attached = s.attached := rfl
@[simp] theorem State.setResult_addressBits (s : State) (r : CmdResult) :
    (s.setResult r).addressBits = s.addressBits := rfl
@[simp] theorem State.setResult_lastAddress (s : State) (r : CmdResult) :
    (s.setResult r).lastAddress = s.lastAddress := rfl
@[simp] theorem State.setResult_lastOp (s : State) (r : CmdResult) :
    (s.setResult r).lastOp = s.lastOp := rfl
@[simp] theorem State.setResult_scratchSize (s : State) (r : CmdResult) :
    (s.setResult r).scratchSize = s.scratchSize := rfl
@[simp] theorem State.setResult_scratchValidMask (s : State) (r : CmdResult) :
    (s.setResult r).scratchValidMask = s.scratchValidMask := rfl
@[simp] theorem State.setResult_scratchMirror (s : State) (r : CmdResult) :
    (s.setResult r).scratchMirror = s.scratchMirror := rfl
@[simp] theorem State.setResult_examined (s : State) (r : CmdResult) :
    (s.setResult r).examined = s.examined := rfl
@[simp] theorem State.setResult_fault (s : State) (r : CmdResult) :
    (s.setResult r).fault = s.fault := rfl
@[simp] theorem State.setResult_irSelect (s : State) (r : CmdResult) :
    (s.setResult r).irSelect = s.irSelect := rfl
@[simp] theorem State.setResult_lifecycle (s : State) (r : CmdResult) :
    (s.setResult r).lifecycle = s.lifecycle := rfl
@[simp] theorem State.setResult_retry (s : State) (r : CmdResult) :
    (s.setResult r).retry = s.retry := rfl
@[simp] theorem State.setResult_scanQueue (s : State) (r : CmdResult) :
    (s.setResult r).scanQueue = s.scanQueue := rfl
@[simp] theorem State.setResult_log (s : State) (r : CmdResult) :
    (s.setResult r).log = s.log := rfl
@[simp] theorem State.setResult_portTrace (s : State) (r : CmdResult) :
    (s.setResult r).portTrace = s.portTrace := rfl
@[simp] theorem State.setResult_result (s : State) (r : CmdResult) :
    (s.setResult r).result = some r := rfl
@[simp] theorem State.setResult_commands (s : State) (r : CmdResult) :
    (s.setResult r).commands = s.commands := rfl
@[simp] theorem State.setResult_answers (s : State) (r : CmdResult) :
    (s.setResult r).answers = s.answers := rfl
@[simp] theorem State.setResult_hookScripts (s : State) (r : CmdResult) :
    (s.setResult r).hookScripts = s.hookScripts := rfl
@[simp] theorem State.setResult_timeoutExpired (s : State) (r : CmdResult) :
    (s.setResult r).timeoutExpired = s.timeoutExpired := rfl
@[simp] theorem State.setResult_draws (s : State) (r : CmdResult) :
    (s.setResult r).draws = s.draws := rfl
@[simp] theorem State.setResult_corePc (s : State) (r : CmdResult) :
    (s.setResult r).corePc = s.corePc := rfl

/-! ### setCorePc -/

@[simp] theorem State.setCorePc_params (s : State) (pc : Word) :
    (s.setCorePc pc).params = s.params := rfl
@[simp] theorem State.setCorePc_attached (s : State) (pc : Word) :
    (s.setCorePc pc).attached = s.attached := rfl
@[simp] theorem State.setCorePc_addressBits (s : State) (pc : Word) :
    (s.setCorePc pc).addressBits = s.addressBits := rfl
@[simp] theorem State.setCorePc_lastAddress (s : State) (pc : Word) :
    (s.setCorePc pc).lastAddress = s.lastAddress := rfl
@[simp] theorem State.setCorePc_lastOp (s : State) (pc : Word) :
    (s.setCorePc pc).lastOp = s.lastOp := rfl
@[simp] theorem State.setCorePc_scratchSize (s : State) (pc : Word) :
    (s.setCorePc pc).scratchSize = s.scratchSize := rfl
@[simp] theorem State.setCorePc_scratchValidMask (s : State) (pc : Word) :
    (s.setCorePc pc).scratchValidMask = s.scratchValidMask := rfl
@[simp] theorem State.setCorePc_scratchMirror (s : State) (pc : Word) :
    (s.setCorePc pc).scratchMirror = s.scratchMirror := rfl
@[simp] theorem State.setCorePc_examined (s : State) (pc : Word) :
    (s.setCorePc pc).examined = s.examined := rfl
@[simp] theorem State.setCorePc_fault (s : State) (pc : Word) :
    (s.setCorePc pc).fault = s.fault := rfl
@[simp] theorem State.setCorePc_irSelect (s : State) (pc : Word) :
    (s.setCorePc pc).irSelect = s.irSelect := rfl
@[simp] theorem State.setCorePc_lifecycle (s : State) (pc : Word) :
    (s.setCorePc pc).lifecycle = s.lifecycle := rfl
@[simp] theorem State.setCorePc_retry (s : State) (pc : Word) :
    (s.setCorePc pc).retry = s.retry := rfl
@[simp] theorem State.setCorePc_scanQueue (s : State) (pc : Word) :
    (s.setCorePc pc).scanQueue = s.scanQueue := rfl
@[simp] theorem State.setCorePc_log (s : State) (pc : Word) :
    (s.setCorePc pc).log = s.log := rfl
@[simp] theorem State.setCorePc_portTrace (s : State) (pc : Word) :
    (s.setCorePc pc).portTrace = s.portTrace := rfl
@[simp] theorem State.setCorePc_result (s : State) (pc : Word) :
    (s.setCorePc pc).result = s.result := rfl
@[simp] theorem State.setCorePc_commands (s : State) (pc : Word) :
    (s.setCorePc pc).commands = s.commands := rfl
@[simp] theorem State.setCorePc_answers (s : State) (pc : Word) :
    (s.setCorePc pc).answers = s.answers := rfl
@[simp] theorem State.setCorePc_hookScripts (s : State) (pc : Word) :
    (s.setCorePc pc).hookScripts = s.hookScripts := rfl
@[simp] theorem State.setCorePc_timeoutExpired (s : State) (pc : Word) :
    (s.setCorePc pc).timeoutExpired = s.timeoutExpired := rfl
@[simp] theorem State.setCorePc_draws (s : State) (pc : Word) :
    (s.setCorePc pc).draws = s.draws := rfl
@[simp] theorem State.setCorePc_corePc (s : State) (pc : Word) :
    (s.setCorePc pc).corePc = pc := rfl

/-! ### recordFault -/

@[simp] theorem State.recordFault_params (s : State) (k : FatalKind) :
    (s.recordFault k).params = s.params := rfl
@[simp] theorem State.recordFault_attached (s : State) (k : FatalKind) :
    (s.recordFault k).attached = s.attached := rfl
@[simp] theorem State.recordFault_addressBits (s : State) (k : FatalKind) :
    (s.recordFault k).addressBits = s.addressBits := rfl
@[simp] theorem State.recordFault_lastAddress (s : State) (k : FatalKind) :
    (s.recordFault k).lastAddress = s.lastAddress := rfl
@[simp] theorem State.recordFault_lastOp (s : State) (k : FatalKind) :
    (s.recordFault k).lastOp = s.lastOp := rfl
@[simp] theorem State.recordFault_scratchSize (s : State) (k : FatalKind) :
    (s.recordFault k).scratchSize = s.scratchSize := rfl
@[simp] theorem State.recordFault_scratchValidMask (s : State) (k : FatalKind) :
    (s.recordFault k).scratchValidMask = s.scratchValidMask := rfl
@[simp] theorem State.recordFault_scratchMirror (s : State) (k : FatalKind) :
    (s.recordFault k).scratchMirror = s.scratchMirror := rfl
@[simp] theorem State.recordFault_examined (s : State) (k : FatalKind) :
    (s.recordFault k).examined = s.examined := rfl
@[simp] theorem State.recordFault_fault (s : State) (k : FatalKind) :
    (s.recordFault k).fault = (match s.fault with | none => some k | some k0 => some k0) := rfl
@[simp] theorem State.recordFault_irSelect (s : State) (k : FatalKind) :
    (s.recordFault k).irSelect = s.irSelect := rfl
@[simp] theorem State.recordFault_lifecycle (s : State) (k : FatalKind) :
    (s.recordFault k).lifecycle = s.lifecycle := rfl
@[simp] theorem State.recordFault_retry (s : State) (k : FatalKind) :
    (s.recordFault k).retry = s.retry := rfl
@[simp] theorem State.recordFault_scanQueue (s : State) (k : FatalKind) :
    (s.recordFault k).scanQueue = s.scanQueue := rfl
@[simp] theorem State.recordFault_log (s : State) (k : FatalKind) :
    (s.recordFault k).log = s.log := rfl
@[simp] theorem State.recordFault_portTrace (s : State) (k : FatalKind) :
    (s.recordFault k).portTrace = s.portTrace := rfl
@[simp] theorem State.recordFault_result (s : State) (k : FatalKind) :
    (s.recordFault k).result = s.result := rfl
@[simp] theorem State.recordFault_commands (s : State) (k : FatalKind) :
    (s.recordFault k).commands = s.commands := rfl
@[simp] theorem State.recordFault_answers (s : State) (k : FatalKind) :
    (s.recordFault k).answers = s.answers := rfl
@[simp] theorem State.recordFault_hookScripts (s : State) (k : FatalKind) :
    (s.recordFault k).hookScripts = s.hookScripts := rfl
@[simp] theorem State.recordFault_timeoutExpired (s : State) (k : FatalKind) :
    (s.recordFault k).timeoutExpired = s.timeoutExpired := rfl
@[simp] theorem State.recordFault_draws (s : State) (k : FatalKind) :
    (s.recordFault k).draws = s.draws := rfl
@[simp] theorem State.recordFault_corePc (s : State) (k : FatalKind) :
    (s.recordFault k).corePc = s.corePc := rfl

/-! ### appendLog -/

@[simp] theorem State.appendLog_params (s : State) (r : LogRecord) :
    (s.appendLog r).params = s.params := rfl
@[simp] theorem State.appendLog_attached (s : State) (r : LogRecord) :
    (s.appendLog r).attached = s.attached := rfl
@[simp] theorem State.appendLog_addressBits (s : State) (r : LogRecord) :
    (s.appendLog r).addressBits = s.addressBits := rfl
@[simp] theorem State.appendLog_lastAddress (s : State) (r : LogRecord) :
    (s.appendLog r).lastAddress = s.lastAddress := rfl
@[simp] theorem State.appendLog_lastOp (s : State) (r : LogRecord) :
    (s.appendLog r).lastOp = s.lastOp := rfl
@[simp] theorem State.appendLog_scratchSize (s : State) (r : LogRecord) :
    (s.appendLog r).scratchSize = s.scratchSize := rfl
@[simp] theorem State.appendLog_scratchValidMask (s : State) (r : LogRecord) :
    (s.appendLog r).scratchValidMask = s.scratchValidMask := rfl
@[simp] theorem State.appendLog_scratchMirror (s : State) (r : LogRecord) :
    (s.appendLog r).scratchMirror = s.scratchMirror := rfl
@[simp] theorem State.appendLog_examined (s : State) (r : LogRecord) :
    (s.appendLog r).examined = s.examined := rfl
@[simp] theorem State.appendLog_fault (s : State) (r : LogRecord) :
    (s.appendLog r).fault = s.fault := rfl
@[simp] theorem State.appendLog_irSelect (s : State) (r : LogRecord) :
    (s.appendLog r).irSelect = s.irSelect := rfl
@[simp] theorem State.appendLog_lifecycle (s : State) (r : LogRecord) :
    (s.appendLog r).lifecycle = s.lifecycle := rfl
@[simp] theorem State.appendLog_retry (s : State) (r : LogRecord) :
    (s.appendLog r).retry = s.retry := rfl
@[simp] theorem State.appendLog_scanQueue (s : State) (r : LogRecord) :
    (s.appendLog r).scanQueue = s.scanQueue := rfl
@[simp] theorem State.appendLog_log (s : State) (r : LogRecord) :
    (s.appendLog r).log = s.log ++ [r] := rfl
@[simp] theorem State.appendLog_portTrace (s : State) (r : LogRecord) :
    (s.appendLog r).portTrace = s.portTrace := rfl
@[simp] theorem State.appendLog_result (s : State) (r : LogRecord) :
    (s.appendLog r).result = s.result := rfl
@[simp] theorem State.appendLog_commands (s : State) (r : LogRecord) :
    (s.appendLog r).commands = s.commands := rfl
@[simp] theorem State.appendLog_answers (s : State) (r : LogRecord) :
    (s.appendLog r).answers = s.answers := rfl
@[simp] theorem State.appendLog_hookScripts (s : State) (r : LogRecord) :
    (s.appendLog r).hookScripts = s.hookScripts := rfl
@[simp] theorem State.appendLog_timeoutExpired (s : State) (r : LogRecord) :
    (s.appendLog r).timeoutExpired = s.timeoutExpired := rfl
@[simp] theorem State.appendLog_draws (s : State) (r : LogRecord) :
    (s.appendLog r).draws = s.draws := rfl
@[simp] theorem State.appendLog_corePc (s : State) (r : LogRecord) :
    (s.appendLog r).corePc = s.corePc := rfl

/-! ### writeMirror -/

@[simp] theorem State.writeMirror_params (s : State) (i : Nat) (v : Word) (b : Bool) :
    (s.writeMirror i v b).params = s.params := rfl
@[simp] theorem State.writeMirror_attached (s : State) (i : Nat) (v : Word) (b : Bool) :
    (s.writeMirror i v b).attached = s.attached := rfl
@[simp] theorem State.writeMirror_addressBits (s : State) (i : Nat) (v : Word) (b : Bool) :
    (s.writeMirror i v b).addressBits = s.addressBits := rfl
@[simp] theorem State.writeMirror_lastAddress (s : State) (i : Nat) (v : Word) (b : Bool) :
    (s.writeMirror i v b).lastAddress = s.lastAddress := rfl
@[simp] theorem State.writeMirror_lastOp (s : State) (i : Nat) (v : Word) (b : Bool) :
    (s.writeMirror i v b).lastOp = s.lastOp := rfl
@[simp] theorem State.writeMirror_scratchSize (s : State) (i : Nat) (v : Word) (b : Bool) :
    (s.writeMirror i v b).scratchSize = s.scratchSize := rfl
@[simp] theorem State.writeMirror_scratchValidMask (s : State) (i : Nat) (v : Word) (b : Bool) :
    (s.writeMirror i v b).scratchValidMask = if i < s.params.mirrorCapacity then s.scratchValidMask.set i b else s.scratchValidMask := rfl
@[simp] theorem State.writeMirror_scratchMirror (s : State) (i : Nat) (v : Word) (b : Bool) :
    (s.writeMirror i v b).scratchMirror = if i < s.params.mirrorCapacity then s.scratchMirror.set i v else s.scratchMirror := rfl
@[simp] theorem State.writeMirror_examined (s : State) (i : Nat) (v : Word) (b : Bool) :
    (s.writeMirror i v b).examined = s.examined := rfl
@[simp] theorem State.writeMirror_fault (s : State) (i : Nat) (v : Word) (b : Bool) :
    (s.writeMirror i v b).fault = s.fault := rfl
@[simp] theorem State.writeMirror_irSelect (s : State) (i : Nat) (v : Word) (b : Bool) :
    (s.writeMirror i v b).irSelect = s.irSelect := rfl
@[simp] theorem State.writeMirror_lifecycle (s : State) (i : Nat) (v : Word) (b : Bool) :
    (s.writeMirror i v b).lifecycle = s.lifecycle := rfl
@[simp] theorem State.writeMirror_retry (s : State) (i : Nat) (v : Word) (b : Bool) :
    (s.writeMirror i v b).retry = s.retry := rfl
@[simp] theorem State.writeMirror_scanQueue (s : State) (i : Nat) (v : Word) (b : Bool) :
    (s.writeMirror i v b).scanQueue = s.scanQueue := rfl
@[simp] theorem State.writeMirror_log (s : State) (i : Nat) (v : Word) (b : Bool) :
    (s.writeMirror i v b).log = s.log := rfl
@[simp] theorem State.writeMirror_portTrace (s : State) (i : Nat) (v : Word) (b : Bool) :
    (s.writeMirror i v b).portTrace = s.portTrace := rfl
@[simp] theorem State.writeMirror_result (s : State) (i : Nat) (v : Word) (b : Bool) :
    (s.writeMirror i v b).result = s.result := rfl
@[simp] theorem State.writeMirror_commands (s : State) (i : Nat) (v : Word) (b : Bool) :
    (s.writeMirror i v b).commands = s.commands := rfl
@[simp] theorem State.writeMirror_answers (s : State) (i : Nat) (v : Word) (b : Bool) :
    (s.writeMirror i v b).answers = s.answers := rfl
@[simp] theorem State.writeMirror_hookScripts (s : State) (i : Nat) (v : Word) (b : Bool) :
    (s.writeMirror i v b).hookScripts = s.hookScripts := rfl
@[simp] theorem State.writeMirror_timeoutExpired (s : State) (i : Nat) (v : Word) (b : Bool) :
    (s.writeMirror i v b).timeoutExpired = s.timeoutExpired := rfl
@[simp] theorem State.writeMirror_draws (s : State) (i : Nat) (v : Word) (b : Bool) :
    (s.writeMirror i v b).draws = s.draws := rfl
@[simp] theorem State.writeMirror_corePc (s : State) (i : Nat) (v : Word) (b : Bool) :
    (s.writeMirror i v b).corePc = s.corePc := rfl

/-! ### clearValid -/

@[simp] theorem State.clearValid_params (s : State) (i : Nat) :
    (s.clearValid i).params = s.params := rfl
@[simp] theorem State.clearValid_attached (s : State) (i : Nat) :
    (s.clearValid i).attached = s.attached := rfl
@[simp] theorem State.clearValid_addressBits (s : State) (i : Nat) :
    (s.clearValid i).addressBits = s.addressBits := rfl
@[simp] theorem State.clearValid_lastAddress (s : State) (i : Nat) :
    (s.clearValid i).lastAddress = s.lastAddress := rfl
@[simp] theorem State.clearValid_lastOp (s : State) (i : Nat) :
    (s.clearValid i).lastOp = s.lastOp := rfl
@[simp] theorem State.clearValid_scratchSize (s : State) (i : Nat) :
    (s.clearValid i).scratchSize = s.scratchSize := rfl
@[simp] theorem State.clearValid_scratchValidMask (s : State) (i : Nat) :
    (s.clearValid i).scratchValidMask = if i < s.params.mirrorCapacity then s.scratchValidMask.set i false else s.scratchValidMask := rfl
@[simp] theorem State.clearValid_scratchMirror (s : State) (i : Nat) :
    (s.clearValid i).scratchMirror = s.scratchMirror := rfl
@[simp] theorem State.clearValid_examined (s : State) (i : Nat) :
    (s.clearValid i).examined = s.examined := rfl
@[simp] theorem State.clearValid_fault (s : State) (i : Nat) :
    (s.clearValid i).fault = s.fault := rfl
@[simp] theorem State.clearValid_irSelect (s : State) (i : Nat) :
    (s.clearValid i).irSelect = s.irSelect := rfl
@[simp] theorem State.clearValid_lifecycle (s : State) (i : Nat) :
    (s.clearValid i).lifecycle = s.lifecycle := rfl
@[simp] theorem State.clearValid_retry (s : State) (i : Nat) :
    (s.clearValid i).retry = s.retry := rfl
@[simp] theorem State.clearValid_scanQueue (s : State) (i : Nat) :
    (s.clearValid i).scanQueue = s.scanQueue := rfl
@[simp] theorem State.clearValid_log (s : State) (i : Nat) :
    (s.clearValid i).log = s.log := rfl
@[simp] theorem State.clearValid_portTrace (s : State) (i : Nat) :
    (s.clearValid i).portTrace = s.portTrace := rfl
@[simp] theorem State.clearValid_result (s : State) (i : Nat) :
    (s.clearValid i).result = s.result := rfl
@[simp] theorem State.clearValid_commands (s : State) (i : Nat) :
    (s.clearValid i).commands = s.commands := rfl
@[simp] theorem State.clearValid_answers (s : State) (i : Nat) :
    (s.clearValid i).answers = s.answers := rfl
@[simp] theorem State.clearValid_hookScripts (s : State) (i : Nat) :
    (s.clearValid i).hookScripts = s.hookScripts := rfl
@[simp] theorem State.clearValid_timeoutExpired (s : State) (i : Nat) :
    (s.clearValid i).timeoutExpired = s.timeoutExpired := rfl
@[simp] theorem State.clearValid_draws (s : State) (i : Nat) :
    (s.clearValid i).draws = s.draws := rfl
@[simp] theorem State.clearValid_corePc (s : State) (i : Nat) :
    (s.clearValid i).corePc = s.corePc := rfl

/-! ### invalidateOnDeviceReset -/

@[simp] theorem State.invalidateOnDeviceReset_params (s : State) :
    (s.invalidateOnDeviceReset).params = s.params := rfl
@[simp] theorem State.invalidateOnDeviceReset_attached (s : State) :
    (s.invalidateOnDeviceReset).attached = s.attached := rfl
@[simp] theorem State.invalidateOnDeviceReset_addressBits (s : State) :
    (s.invalidateOnDeviceReset).addressBits = s.addressBits := rfl
@[simp] theorem State.invalidateOnDeviceReset_lastAddress (s : State) :
    (s.invalidateOnDeviceReset).lastAddress = s.lastAddress := rfl
@[simp] theorem State.invalidateOnDeviceReset_lastOp (s : State) :
    (s.invalidateOnDeviceReset).lastOp = s.lastOp := rfl
@[simp] theorem State.invalidateOnDeviceReset_scratchSize (s : State) :
    (s.invalidateOnDeviceReset).scratchSize = s.scratchSize := rfl
@[simp] theorem State.invalidateOnDeviceReset_scratchValidMask (s : State) :
    (s.invalidateOnDeviceReset).scratchValidMask = List.replicate s.params.mirrorCapacity false := rfl
@[simp] theorem State.invalidateOnDeviceReset_scratchMirror (s : State) :
    (s.invalidateOnDeviceReset).scratchMirror = s.scratchMirror := rfl
@[simp] theorem State.invalidateOnDeviceReset_examined (s : State) :
    (s.invalidateOnDeviceReset).examined = s.examined := rfl
@[simp] theorem State.invalidateOnDeviceReset_fault (s : State) :
    (s.invalidateOnDeviceReset).fault = s.fault := rfl
@[simp] theorem State.invalidateOnDeviceReset_irSelect (s : State) :
    (s.invalidateOnDeviceReset).irSelect = s.irSelect := rfl
@[simp] theorem State.invalidateOnDeviceReset_lifecycle (s : State) :
    (s.invalidateOnDeviceReset).lifecycle = .unexamined := rfl
@[simp] theorem State.invalidateOnDeviceReset_retry (s : State) :
    (s.invalidateOnDeviceReset).retry = s.retry := rfl
@[simp] theorem State.invalidateOnDeviceReset_scanQueue (s : State) :
    (s.invalidateOnDeviceReset).scanQueue = s.scanQueue := rfl
@[simp] theorem State.invalidateOnDeviceReset_log (s : State) :
    (s.invalidateOnDeviceReset).log = s.log := rfl
@[simp] theorem State.invalidateOnDeviceReset_portTrace (s : State) :
    (s.invalidateOnDeviceReset).portTrace = s.portTrace := rfl
@[simp] theorem State.invalidateOnDeviceReset_result (s : State) :
    (s.invalidateOnDeviceReset).result = s.result := rfl
@[simp] theorem State.invalidateOnDeviceReset_commands (s : State) :
    (s.invalidateOnDeviceReset).commands = s.commands := rfl
@[simp] theorem State.invalidateOnDeviceReset_answers (s : State) :
    (s.invalidateOnDeviceReset).answers = s.answers := rfl
@[simp] theorem State.invalidateOnDeviceReset_hookScripts (s : State) :
    (s.invalidateOnDeviceReset).hookScripts = s.hookScripts := rfl
@[simp] theorem State.invalidateOnDeviceReset_timeoutExpired (s : State) :
    (s.invalidateOnDeviceReset).timeoutExpired = s.timeoutExpired := rfl
@[simp] theorem State.invalidateOnDeviceReset_draws (s : State) :
    (s.invalidateOnDeviceReset).draws = s.draws := rfl
@[simp] theorem State.invalidateOnDeviceReset_corePc (s : State) :
    (s.invalidateOnDeviceReset).corePc = s.corePc := rfl

/-! ### startSession -/

@[simp] theorem State.startSession_params (s : State) (b : Bool) :
    (s.startSession b).params = s.params := rfl
@[simp] theorem State.startSession_attached (s : State) (b : Bool) :
    (s.startSession b).attached = b := rfl
@[simp] theorem State.startSession_addressBits (s : State) (b : Bool) :
    (s.startSession b).addressBits = 0#8 := rfl
@[simp] theorem State.startSession_lastAddress (s : State) (b : Bool) :
    (s.startSession b).lastAddress = none := rfl
@[simp] theorem State.startSession_lastOp (s : State) (b : Bool) :
    (s.startSession b).lastOp = .none := rfl
@[simp] theorem State.startSession_scratchSize (s : State) (b : Bool) :
    (s.startSession b).scratchSize = 0#32 := rfl
@[simp] theorem State.startSession_scratchValidMask (s : State) (b : Bool) :
    (s.startSession b).scratchValidMask = List.replicate s.params.mirrorCapacity false := rfl
@[simp] theorem State.startSession_scratchMirror (s : State) (b : Bool) :
    (s.startSession b).scratchMirror = (List.range s.params.mirrorCapacity).map (Config.freeMirrorWord s.draws) := rfl
@[simp] theorem State.startSession_examined (s : State) (b : Bool) :
    (s.startSession b).examined = false := rfl
@[simp] theorem State.startSession_fault (s : State) (b : Bool) :
    (s.startSession b).fault = none := rfl
@[simp] theorem State.startSession_irSelect (s : State) (b : Bool) :
    (s.startSession b).irSelect = .unknown := rfl
@[simp] theorem State.startSession_lifecycle (s : State) (b : Bool) :
    (s.startSession b).lifecycle = .unexamined := rfl
@[simp] theorem State.startSession_retry (s : State) (b : Bool) :
    (s.startSession b).retry = s.retry := rfl
@[simp] theorem State.startSession_scanQueue (s : State) (b : Bool) :
    (s.startSession b).scanQueue = s.scanQueue := rfl
@[simp] theorem State.startSession_log (s : State) (b : Bool) :
    (s.startSession b).log = s.log := rfl
@[simp] theorem State.startSession_portTrace (s : State) (b : Bool) :
    (s.startSession b).portTrace = s.portTrace := rfl
@[simp] theorem State.startSession_result (s : State) (b : Bool) :
    (s.startSession b).result = s.result := rfl
@[simp] theorem State.startSession_commands (s : State) (b : Bool) :
    (s.startSession b).commands = s.commands := rfl
@[simp] theorem State.startSession_answers (s : State) (b : Bool) :
    (s.startSession b).answers = s.answers := rfl
@[simp] theorem State.startSession_hookScripts (s : State) (b : Bool) :
    (s.startSession b).hookScripts = s.hookScripts := rfl
@[simp] theorem State.startSession_timeoutExpired (s : State) (b : Bool) :
    (s.startSession b).timeoutExpired = s.timeoutExpired := rfl
@[simp] theorem State.startSession_draws (s : State) (b : Bool) :
    (s.startSession b).draws = s.draws + 1 := rfl
@[simp] theorem State.startSession_corePc (s : State) (b : Bool) :
    (s.startSession b).corePc = s.corePc := rfl

/-! ### portSelect -/

@[simp] theorem State.portSelect_params (s : State) (r : DataReg) :
    (s.portSelect r).params = s.params := rfl
@[simp] theorem State.portSelect_attached (s : State) (r : DataReg) :
    (s.portSelect r).attached = s.attached := rfl
@[simp] theorem State.portSelect_addressBits (s : State) (r : DataReg) :
    (s.portSelect r).addressBits = s.addressBits := rfl
@[simp] theorem State.portSelect_lastAddress (s : State) (r : DataReg) :
    (s.portSelect r).lastAddress = s.lastAddress := rfl
@[simp] theorem State.portSelect_lastOp (s : State) (r : DataReg) :
    (s.portSelect r).lastOp = s.lastOp := rfl
@[simp] theorem State.portSelect_scratchSize (s : State) (r : DataReg) :
    (s.portSelect r).scratchSize = s.scratchSize := rfl
@[simp] theorem State.portSelect_scratchValidMask (s : State) (r : DataReg) :
    (s.portSelect r).scratchValidMask = s.scratchValidMask := rfl
@[simp] theorem State.portSelect_scratchMirror (s : State) (r : DataReg) :
    (s.portSelect r).scratchMirror = s.scratchMirror := rfl
@[simp] theorem State.portSelect_examined (s : State) (r : DataReg) :
    (s.portSelect r).examined = s.examined := rfl
@[simp] theorem State.portSelect_fault (s : State) (r : DataReg) :
    (s.portSelect r).fault = s.fault := rfl
@[simp] theorem State.portSelect_irSelect (s : State) (r : DataReg) :
    (s.portSelect r).irSelect = s.irSelect := rfl
@[simp] theorem State.portSelect_lifecycle (s : State) (r : DataReg) :
    (s.portSelect r).lifecycle = s.lifecycle := rfl
@[simp] theorem State.portSelect_retry (s : State) (r : DataReg) :
    (s.portSelect r).retry = s.retry := rfl
@[simp] theorem State.portSelect_scanQueue (s : State) (r : DataReg) :
    (s.portSelect r).scanQueue = s.scanQueue ++ [.select r] := rfl
@[simp] theorem State.portSelect_log (s : State) (r : DataReg) :
    (s.portSelect r).log = s.log := rfl
@[simp] theorem State.portSelect_portTrace (s : State) (r : DataReg) :
    (s.portSelect r).portTrace = s.portTrace ++ [.select r] := rfl
@[simp] theorem State.portSelect_result (s : State) (r : DataReg) :
    (s.portSelect r).result = s.result := rfl
@[simp] theorem State.portSelect_commands (s : State) (r : DataReg) :
    (s.portSelect r).commands = s.commands := rfl
@[simp] theorem State.portSelect_answers (s : State) (r : DataReg) :
    (s.portSelect r).answers = s.answers := rfl
@[simp] theorem State.portSelect_hookScripts (s : State) (r : DataReg) :
    (s.portSelect r).hookScripts = s.hookScripts := rfl
@[simp] theorem State.portSelect_timeoutExpired (s : State) (r : DataReg) :
    (s.portSelect r).timeoutExpired = s.timeoutExpired := rfl
@[simp] theorem State.portSelect_draws (s : State) (r : DataReg) :
    (s.portSelect r).draws = s.draws := rfl
@[simp] theorem State.portSelect_corePc (s : State) (r : DataReg) :
    (s.portSelect r).corePc = s.corePc := rfl

/-! ### portShift -/

@[simp] theorem State.portShift_params (s : State) (n out : Nat) :
    (s.portShift n out).params = s.params := rfl
@[simp] theorem State.portShift_attached (s : State) (n out : Nat) :
    (s.portShift n out).attached = s.attached := rfl
@[simp] theorem State.portShift_addressBits (s : State) (n out : Nat) :
    (s.portShift n out).addressBits = s.addressBits := rfl
@[simp] theorem State.portShift_lastAddress (s : State) (n out : Nat) :
    (s.portShift n out).lastAddress = s.lastAddress := rfl
@[simp] theorem State.portShift_lastOp (s : State) (n out : Nat) :
    (s.portShift n out).lastOp = s.lastOp := rfl
@[simp] theorem State.portShift_scratchSize (s : State) (n out : Nat) :
    (s.portShift n out).scratchSize = s.scratchSize := rfl
@[simp] theorem State.portShift_scratchValidMask (s : State) (n out : Nat) :
    (s.portShift n out).scratchValidMask = s.scratchValidMask := rfl
@[simp] theorem State.portShift_scratchMirror (s : State) (n out : Nat) :
    (s.portShift n out).scratchMirror = s.scratchMirror := rfl
@[simp] theorem State.portShift_examined (s : State) (n out : Nat) :
    (s.portShift n out).examined = s.examined := rfl
@[simp] theorem State.portShift_fault (s : State) (n out : Nat) :
    (s.portShift n out).fault = s.fault := rfl
@[simp] theorem State.portShift_irSelect (s : State) (n out : Nat) :
    (s.portShift n out).irSelect = s.irSelect := rfl
@[simp] theorem State.portShift_lifecycle (s : State) (n out : Nat) :
    (s.portShift n out).lifecycle = s.lifecycle := rfl
@[simp] theorem State.portShift_retry (s : State) (n out : Nat) :
    (s.portShift n out).retry = s.retry := rfl
@[simp] theorem State.portShift_scanQueue (s : State) (n out : Nat) :
    (s.portShift n out).scanQueue = s.scanQueue ++ [.shift n out] := rfl
@[simp] theorem State.portShift_log (s : State) (n out : Nat) :
    (s.portShift n out).log = s.log := rfl
@[simp] theorem State.portShift_portTrace (s : State) (n out : Nat) :
    (s.portShift n out).portTrace = s.portTrace ++ [.shift n out] := rfl
@[simp] theorem State.portShift_result (s : State) (n out : Nat) :
    (s.portShift n out).result = s.result := rfl
@[simp] theorem State.portShift_commands (s : State) (n out : Nat) :
    (s.portShift n out).commands = s.commands := rfl
@[simp] theorem State.portShift_answers (s : State) (n out : Nat) :
    (s.portShift n out).answers = s.answers := rfl
@[simp] theorem State.portShift_hookScripts (s : State) (n out : Nat) :
    (s.portShift n out).hookScripts = s.hookScripts := rfl
@[simp] theorem State.portShift_timeoutExpired (s : State) (n out : Nat) :
    (s.portShift n out).timeoutExpired = s.timeoutExpired := rfl
@[simp] theorem State.portShift_draws (s : State) (n out : Nat) :
    (s.portShift n out).draws = s.draws := rfl
@[simp] theorem State.portShift_corePc (s : State) (n out : Nat) :
    (s.portShift n out).corePc = s.corePc := rfl

/-! ### flushed -/

@[simp] theorem State.flushed_params (s : State) :
    (s.flushed).params = s.params := rfl
@[simp] theorem State.flushed_attached (s : State) :
    (s.flushed).attached = s.attached := rfl
@[simp] theorem State.flushed_addressBits (s : State) :
    (s.flushed).addressBits = s.addressBits := rfl
@[simp] theorem State.flushed_lastAddress (s : State) :
    (s.flushed).lastAddress = s.lastAddress := rfl
@[simp] theorem State.flushed_lastOp (s : State) :
    (s.flushed).lastOp = s.lastOp := rfl
@[simp] theorem State.flushed_scratchSize (s : State) :
    (s.flushed).scratchSize = s.scratchSize := rfl
@[simp] theorem State.flushed_scratchValidMask (s : State) :
    (s.flushed).scratchValidMask = s.scratchValidMask := rfl
@[simp] theorem State.flushed_scratchMirror (s : State) :
    (s.flushed).scratchMirror = s.scratchMirror := rfl
@[simp] theorem State.flushed_examined (s : State) :
    (s.flushed).examined = s.examined := rfl
@[simp] theorem State.flushed_fault (s : State) :
    (s.flushed).fault = s.fault := rfl
@[simp] theorem State.flushed_irSelect (s : State) :
    (s.flushed).irSelect = s.irSelect := rfl
@[simp] theorem State.flushed_lifecycle (s : State) :
    (s.flushed).lifecycle = s.lifecycle := rfl
@[simp] theorem State.flushed_retry (s : State) :
    (s.flushed).retry = s.retry := rfl
@[simp] theorem State.flushed_scanQueue (s : State) :
    (s.flushed).scanQueue = [] := rfl
@[simp] theorem State.flushed_log (s : State) :
    (s.flushed).log = s.log := rfl
@[simp] theorem State.flushed_portTrace (s : State) :
    (s.flushed).portTrace = s.portTrace ++ [.flush s.nextAnswer] := rfl
@[simp] theorem State.flushed_result (s : State) :
    (s.flushed).result = s.result := rfl
@[simp] theorem State.flushed_commands (s : State) :
    (s.flushed).commands = s.commands := rfl
@[simp] theorem State.flushed_answers (s : State) :
    (s.flushed).answers = s.answers.tail := rfl
@[simp] theorem State.flushed_hookScripts (s : State) :
    (s.flushed).hookScripts = s.hookScripts := rfl
@[simp] theorem State.flushed_timeoutExpired (s : State) :
    (s.flushed).timeoutExpired = s.nextAnswer.late := rfl
@[simp] theorem State.flushed_draws (s : State) :
    (s.flushed).draws = if s.answers.isEmpty then s.draws + 1 else s.draws := rfl
@[simp] theorem State.flushed_corePc (s : State) :
    (s.flushed).corePc = s.corePc := rfl

/-! ### enterHook -/

@[simp] theorem State.enterHook_params (s : State) (h : HookName) :
    (s.enterHook h).params = s.params := rfl
@[simp] theorem State.enterHook_attached (s : State) (h : HookName) :
    (s.enterHook h).attached = s.attached := rfl
@[simp] theorem State.enterHook_addressBits (s : State) (h : HookName) :
    (s.enterHook h).addressBits = s.addressBits := rfl
@[simp] theorem State.enterHook_lastAddress (s : State) (h : HookName) :
    (s.enterHook h).lastAddress = s.lastAddress := rfl
@[simp] theorem State.enterHook_lastOp (s : State) (h : HookName) :
    (s.enterHook h).lastOp = s.lastOp := rfl
@[simp] theorem State.enterHook_scratchSize (s : State) (h : HookName) :
    (s.enterHook h).scratchSize = s.scratchSize := rfl
@[simp] theorem State.enterHook_scratchValidMask (s : State) (h : HookName) :
    (s.enterHook h).scratchValidMask = s.scratchValidMask := rfl
@[simp] theorem State.enterHook_scratchMirror (s : State) (h : HookName) :
    (s.enterHook h).scratchMirror = s.scratchMirror := rfl
@[simp] theorem State.enterHook_examined (s : State) (h : HookName) :
    (s.enterHook h).examined = s.examined := rfl
@[simp] theorem State.enterHook_fault (s : State) (h : HookName) :
    (s.enterHook h).fault = s.fault := rfl
@[simp] theorem State.enterHook_irSelect (s : State) (h : HookName) :
    (s.enterHook h).irSelect = s.irSelect := rfl
@[simp] theorem State.enterHook_lifecycle (s : State) (h : HookName) :
    (s.enterHook h).lifecycle = s.lifecycle := rfl
@[simp] theorem State.enterHook_retry (s : State) (h : HookName) :
    (s.enterHook h).retry = s.retry := rfl
@[simp] theorem State.enterHook_scanQueue (s : State) (h : HookName) :
    (s.enterHook h).scanQueue = s.scanQueue := rfl
@[simp] theorem State.enterHook_log (s : State) (h : HookName) :
    (s.enterHook h).log = s.log := rfl
@[simp] theorem State.enterHook_portTrace (s : State) (h : HookName) :
    (s.enterHook h).portTrace = s.portTrace ++ [.hook h] := rfl
@[simp] theorem State.enterHook_result (s : State) (h : HookName) :
    (s.enterHook h).result = s.result := rfl
@[simp] theorem State.enterHook_commands (s : State) (h : HookName) :
    (s.enterHook h).commands = s.commands := rfl
@[simp] theorem State.enterHook_answers (s : State) (h : HookName) :
    (s.enterHook h).answers = s.answers := rfl
@[simp] theorem State.enterHook_hookScripts (s : State) (h : HookName) :
    (s.enterHook h).hookScripts = s.hookScripts.tail := rfl
@[simp] theorem State.enterHook_timeoutExpired (s : State) (h : HookName) :
    (s.enterHook h).timeoutExpired = s.timeoutExpired := rfl
@[simp] theorem State.enterHook_draws (s : State) (h : HookName) :
    (s.enterHook h).draws = if s.hookScripts.isEmpty then s.draws + 1 else s.draws := rfl
@[simp] theorem State.enterHook_corePc (s : State) (h : HookName) :
    (s.enterHook h).corePc = s.corePc := rfl

/-! ### acceptCommand -/

@[simp] theorem State.acceptCommand_params (s : State) (ws : List PortWord) :
    (s.acceptCommand ws).params = s.params := rfl
@[simp] theorem State.acceptCommand_attached (s : State) (ws : List PortWord) :
    (s.acceptCommand ws).attached = s.attached := rfl
@[simp] theorem State.acceptCommand_addressBits (s : State) (ws : List PortWord) :
    (s.acceptCommand ws).addressBits = s.addressBits := rfl
@[simp] theorem State.acceptCommand_lastAddress (s : State) (ws : List PortWord) :
    (s.acceptCommand ws).lastAddress = s.lastAddress := rfl
@[simp] theorem State.acceptCommand_lastOp (s : State) (ws : List PortWord) :
    (s.acceptCommand ws).lastOp = s.lastOp := rfl
@[simp] theorem State.acceptCommand_scratchSize (s : State) (ws : List PortWord) :
    (s.acceptCommand ws).scratchSize = s.scratchSize := rfl
@[simp] theorem State.acceptCommand_scratchValidMask (s : State) (ws : List PortWord) :
    (s.acceptCommand ws).scratchValidMask = s.scratchValidMask := rfl
@[simp] theorem State.acceptCommand_scratchMirror (s : State) (ws : List PortWord) :
    (s.acceptCommand ws).scratchMirror = s.scratchMirror := rfl
@[simp] theorem State.acceptCommand_examined (s : State) (ws : List PortWord) :
    (s.acceptCommand ws).examined = s.examined := rfl
@[simp] theorem State.acceptCommand_fault (s : State) (ws : List PortWord) :
    (s.acceptCommand ws).fault = s.fault := rfl
@[simp] theorem State.acceptCommand_irSelect (s : State) (ws : List PortWord) :
    (s.acceptCommand ws).irSelect = s.irSelect := rfl
@[simp] theorem State.acceptCommand_lifecycle (s : State) (ws : List PortWord) :
    (s.acceptCommand ws).lifecycle = s.lifecycle := rfl
@[simp] theorem State.acceptCommand_retry (s : State) (ws : List PortWord) :
    (s.acceptCommand ws).retry = s.retry := rfl
@[simp] theorem State.acceptCommand_scanQueue (s : State) (ws : List PortWord) :
    (s.acceptCommand ws).scanQueue = s.scanQueue := rfl
@[simp] theorem State.acceptCommand_log (s : State) (ws : List PortWord) :
    (s.acceptCommand ws).log = s.log := rfl
@[simp] theorem State.acceptCommand_portTrace (s : State) (ws : List PortWord) :
    (s.acceptCommand ws).portTrace = s.portTrace := rfl
@[simp] theorem State.acceptCommand_result (s : State) (ws : List PortWord) :
    (s.acceptCommand ws).result = s.result := rfl
@[simp] theorem State.acceptCommand_commands (s : State) (ws : List PortWord) :
    (s.acceptCommand ws).commands = ws := rfl
@[simp] theorem State.acceptCommand_answers (s : State) (ws : List PortWord) :
    (s.acceptCommand ws).answers = s.answers := rfl
@[simp] theorem State.acceptCommand_hookScripts (s : State) (ws : List PortWord) :
    (s.acceptCommand ws).hookScripts = s.hookScripts := rfl
@[simp] theorem State.acceptCommand_timeoutExpired (s : State) (ws : List PortWord) :
    (s.acceptCommand ws).timeoutExpired = s.timeoutExpired := rfl
@[simp] theorem State.acceptCommand_draws (s : State) (ws : List PortWord) :
    (s.acceptCommand ws).draws = s.draws := rfl
@[simp] theorem State.acceptCommand_corePc (s : State) (ws : List PortWord) :
    (s.acceptCommand ws).corePc = s.corePc := rfl

/-! ### The answer of the next flush depends on the inputs and the draw counter only -/

theorem State.nextAnswer_of_answers {s : State} {a : Answer} {rest : List Answer} (h : s.answers = a :: rest) :
    s.nextAnswer = a := by
  simp [State.nextAnswer, h]

theorem State.nextAnswer_congr {s t : State} (ha : t.answers = s.answers) (hd : t.draws = s.draws) :
    t.nextAnswer = s.nextAnswer := by
  simp [State.nextAnswer, ha, hd]

@[simp] theorem State.cacheRequest_nextAnswer (s : State) (op : WireOp) (a : DbusAddr) :
    (s.cacheRequest op a).nextAnswer = s.nextAnswer := rfl
@[simp] theorem State.setAddressBits_nextAnswer (s : State) (w : BitVec 8) :
    (s.setAddressBits w).nextAnswer = s.nextAnswer := rfl
@[simp] theorem State.setIrSelect_nextAnswer (s : State) (r : IrSelect) :
    (s.setIrSelect r).nextAnswer = s.nextAnswer := rfl
@[simp] theorem State.setScratchSize_nextAnswer (s : State) (n : Word) :
    (s.setScratchSize n).nextAnswer = s.nextAnswer := rfl
@[simp] theorem State.setExamined_nextAnswer (s : State) :
    (s.setExamined).nextAnswer = s.nextAnswer := rfl
@[simp] theorem State.setLifecycle_nextAnswer (s : State) (l : Lifecycle) :
    (s.setLifecycle l).nextAnswer = s.nextAnswer := rfl
@[simp] theorem State.setRetry_nextAnswer (s : State) (r : Option RetryLoop) :
    (s.setRetry r).nextAnswer = s.nextAnswer := rfl
@[simp] theorem State.setResult_nextAnswer (s : State) (r : CmdResult) :
    (s.setResult r).nextAnswer = s.nextAnswer := rfl
@[simp] theorem State.setCorePc_nextAnswer (s : State) (pc : Word) :
    (s.setCorePc pc).nextAnswer = s.nextAnswer := rfl
@[simp] theorem State.recordFault_nextAnswer (s : State) (k : FatalKind) :
    (s.recordFault k).nextAnswer = s.nextAnswer := rfl
@[simp] theorem State.appendLog_nextAnswer (s : State) (r : LogRecord) :
    (s.appendLog r).nextAnswer = s.nextAnswer := rfl
@[simp] theorem State.writeMirror_nextAnswer (s : State) (i : Nat) (v : Word) (b : Bool) :
    (s.writeMirror i v b).nextAnswer = s.nextAnswer := rfl
@[simp] theorem State.clearValid_nextAnswer (s : State) (i : Nat) :
    (s.clearValid i).nextAnswer = s.nextAnswer := rfl
@[simp] theorem State.invalidateOnDeviceReset_nextAnswer (s : State) :
    (s.invalidateOnDeviceReset).nextAnswer = s.nextAnswer := rfl
@[simp] theorem State.portSelect_nextAnswer (s : State) (r : DataReg) :
    (s.portSelect r).nextAnswer = s.nextAnswer := rfl
@[simp] theorem State.portShift_nextAnswer (s : State) (n out : Nat) :
    (s.portShift n out).nextAnswer = s.nextAnswer := rfl
@[simp] theorem State.acceptCommand_nextAnswer (s : State) (ws : List PortWord) :
    (s.acceptCommand ws).nextAnswer = s.nextAnswer := rfl

end Sys2Proof.Machine
end

