-- ==== Sys2Proof/Laws/Procs.lean ====
section
/-! SUPPORT. Sys2Proof/Laws/Procs.lean: how procedures compose and how a command returns; the entry tests in closed form. -/

namespace Sys2Proof.Machine

variable {α β : Type}

@[simp] theorem done_apply (a : α) (s : State) : done a s = (.ok a, s) := rfl

@[simp] theorem update_apply (f : State → State) (s : State) : update f s = (.ok (), f s) := rfl

@[simp] theorem raiseFatal_apply (k : FatalKind) (s : State) :
    (raiseFatal k s : Res α × State) = (.err k, s.recordFault k) := rfl

@[simp] theorem refuse_apply (k : RefusalKind) (s : State) : (refuse k s : Res α × State) = (.refused k, s) := rfl

@[simp] theorem leaveLoop_apply (r : Res α) (s : State) : leaveLoop r s = (r, s.setRetry none) := rfl

theorem andThen_ok {p : Proc α} {f : α → Proc β} {s s1 : State} {a : α} (h : p s = (.ok a, s1)) :
    andThen p f s = f a s1 := by
  simp only [andThen, h]

theorem andThen_err {p : Proc α} {f : α → Proc β} {s s1 : State} {k : FatalKind} (h : p s = (.err k, s1)) :
    andThen p f s = (.err k, s1) := by
  simp only [andThen, h]

theorem andThen_refused {p : Proc α} {f : α → Proc β} {s s1 : State} {k : RefusalKind} (h : p s = (.refused k, s1)) :
    andThen p f s = (.refused k, s1) := by
  simp only [andThen, h]

theorem andThen_assoc {γ : Type} (p : Proc α) (f : α → Proc β) (g : β → Proc γ) :
    andThen (andThen p f) g = andThen p fun a => andThen (f a) g := by
  funext s
  rcases h : p s with ⟨_ | _ | _, s1⟩ <;> simp only [andThen, h]

@[simp] theorem andThen_done (a : α) (f : α → Proc β) : andThen (done a) f = f a := rfl

/-- A sequence that ended normally was two that did. -/
theorem andThen_ok_inv {p : Proc α} {f : α → Proc β} {s t : State} {b : β} (h : andThen p f s = (.ok b, t)) :
    ∃ a u, p s = (.ok a, u) ∧ f a u = (.ok b, t) := by
  rcases hp : p s with ⟨a | k | k, u⟩
  · exact ⟨a, u, rfl, by rwa [andThen_ok hp] at h⟩
  · rw [andThen_err hp] at h; cases h
  · rw [andThen_refused hp] at h; cases h

/-- Everything a sequence of two procedures can do: the second runs in the state the first left, or the first stopped. -/
theorem andThen_cases (p : Proc α) (f : α → Proc β) (s : State) :
    (∃ a, (p s).1 = .ok a ∧ andThen p f s = f a (p s).2) ∨ (andThen p f s).2 = (p s).2 := by
  rcases h : p s with ⟨_ | _ | _, s1⟩
  · exact .inl ⟨_, rfl, andThen_ok h⟩
  · exact .inr (by rw [andThen_err h])
  · exact .inr (by rw [andThen_refused h])

/-- A sequence that does not end normally, though its second part always does, stopped in its first. -/
theorem andThen_stopped {p : Proc α} {f : α → Proc β} {s : State} (hf : ∀ a t, ∃ b, (f a t).1 = .ok b)
    (h : ∀ b, (andThen p f s).1 ≠ .ok b) : (andThen p f s).2 = (p s).2 ∧ ∀ a, (p s).1 ≠ .ok a := by
  rcases hp : p s with ⟨a | k | k, s1⟩
  · obtain ⟨b, hb⟩ := hf a s1
    exact absurd (by rw [andThen_ok hp, hb]) (h b)
  · exact ⟨by rw [andThen_err hp], by simp⟩
  · exact ⟨by rw [andThen_refused hp], by simp⟩

theorem finish_ok {p : Proc α} {f : α → Value} {s s1 : State} {a : α} (h : p s = (.ok a, s1)) :
    finish p f s = .next (s1.setResult (.ok (f a))) := by
  simp only [finish, h]

theorem finish_err {p : Proc α} {f : α → Value} {s s1 : State} {k : FatalKind} (h : p s = (.err k, s1)) :
    finish p f s = .next (s1.setResult (.err k)) := by
  simp only [finish, h]

theorem finish_refused {p : Proc α} {f : α → Value} {s s1 : State} {k : RefusalKind} (h : p s = (.refused k, s1)) :
    finish p f s = .next (s1.setResult (.refused k)) := by
  simp only [finish, h]

/-- Everything a command's step can do: it always ends in a next state, the procedure's own state but for the result. -/
theorem finish_next (p : Proc α) (f : α → Value) (s : State) : ∃ r, finish p f s = .next ((p s).2.setResult r) := by
  rcases h : p s with ⟨_ | _ | _, s1⟩
  · exact ⟨_, finish_ok h⟩
  · exact ⟨_, finish_err h⟩
  · exact ⟨_, finish_refused h⟩

/-! ### The entry tests -/

theorem requireSession_open {s : State} (h : SessionOpen s) : requireSession s = (.ok (), s) := by
  simp [requireSession, h.1, h.2]

theorem requireSession_detached {s : State} (h : s.attached = false) : requireSession s = (.refused .notAttached, s) := by
  simp [requireSession, h]

theorem requireSession_failed {s : State} {k : FatalKind} (ha : s.attached = true) (hf : s.fault = some k) :
    requireSession s = (.refused (.sessionFailed k), s) := by
  simp [requireSession, ha, hf]

/-- The entry tests pass exactly in an open session, and never change the state. -/
theorem requireSession_state (s : State) : (requireSession s).2 = s := by
  unfold requireSession; split
  · rfl
  · split <;> rfl

/-- The entry tests ended normally only in an open session, on a slot that exists (R237, R171). -/
theorem requireSession_inv {s t : State} {a : Unit} (h : requireSession s = (.ok a, t)) : SessionOpen s ∧ t = s := by
  refine ⟨?_, by rw [← requireSession_state s, h]⟩
  rcases ha : s.attached with _ | _
  · rw [requireSession_detached ha] at h; cases h
  · rcases hf : s.fault with _ | k
    · exact ⟨ha, hf⟩
    · rw [requireSession_failed ha hf] at h; cases h

theorem requireIndex_legal {s : State} {index : Word} (h : index < s.scratchSize) :
    requireIndex index s = (.ok (), s) := by
  have h' : ¬ s.scratchSize ≤ index := by
    rw [BitVec.le_def]; rw [BitVec.lt_def] at h; omega
  simp [requireIndex, h']

theorem requireIndex_illegal {s : State} {index : Word} (h : s.scratchSize ≤ index) :
    requireIndex index s = (.refused (.indexRange index), s) := by
  simp [requireIndex, h]

theorem requireIndex_state (index : Word) (s : State) : (requireIndex index s).2 = s := by
  unfold requireIndex; split <;> rfl

theorem requireIndex_inv {index : Word} {s t : State} {a : Unit} (h : requireIndex index s = (.ok a, t)) :
    index < s.scratchSize ∧ t = s := by
  refine ⟨?_, by rw [← requireIndex_state index s, h]⟩
  by_contra hc
  rw [requireIndex_illegal (by rw [BitVec.le_def]; rw [BitVec.lt_def] at hc; omega)] at h
  cases h

end Sys2Proof.Machine
end

