-- ==== Sys2Proof/Laws/Engine.lean ====
section
/-! SUPPORT. Sys2Proof/Laws/Engine.lean: what one debug-bus scan can do, what the retry loop makes of each response, and the closed
forms of both on scripted answers. -/

namespace Sys2Proof.Machine

variable {s : State} {op : WireOp} {address : DbusAddr} {dataOut : DbusData}

/-- The state one driven debug-bus scan leaves, whatever it was answered (R150). -/
def State.scanned (s : State) (op : WireOp) (address : DbusAddr) (dataOut : DbusData) : State :=
  ((s.portShift (busWidth s) (assemble op address dataOut)).cacheRequest op address).flushed

/-- Everything one scan can do (R150, R234): refused or failed at a test with nothing driven, or driven, and then the flush
failed or a response was delivered. -/
theorem scanProc_cases (s : State) (op : WireOp) (address : DbusAddr) (dataOut : DbusData) :
    (∃ k, scanProc op address dataOut s = (.refused k, s)) ∨
    (SessionOpen s ∧ s.addressBits = 0#8 ∧
      scanProc op address dataOut s = (.err .assertAddressBits, s.recordFault .assertAddressBits)) ∨
    (BusReady s address ∧ s.nextAnswer = .err ∧
      scanProc op address dataOut s =
        (.err .transportError, (s.scanned op address dataOut).recordFault .transportError)) ∨
    (BusReady s address ∧ ∃ v late, s.nextAnswer = .ok v late ∧
      scanProc op address dataOut s =
        (.ok (responseCode (v % 2 ^ busWidth s), dataField (v % 2 ^ busWidth s)), s.scanned op address dataOut)) := by
  by_cases ha : s.attached = false
  · exact .inl ⟨_, andThen_refused (requireSession_detached ha)⟩
  have ha' : s.attached = true := by simpa using ha
  rcases hf : s.fault with _ | k
  · have hopen : SessionOpen s := ⟨ha', hf⟩
    have e : scanProc op address dataOut s =
        (if s.addressBits = 0#8 then raiseFatal .assertAddressBits s
         else if 2 ^ s.addressBits.toNat ≤ address.toNat then refuse (.addressRange address) s
         else driveScan op address dataOut s) := andThen_ok (requireSession_open hopen)
    by_cases hz : s.addressBits = 0#8
    · exact .inr (.inl ⟨hopen, hz, by rw [e, if_pos hz]; rfl⟩)
    by_cases hr : 2 ^ s.addressBits.toNat ≤ address.toNat
    · exact .inl ⟨_, by rw [e, if_neg hz, if_pos hr]; rfl⟩
    have hready : BusReady s address := ⟨hopen, hz, by omega⟩
    rw [if_neg hz, if_neg hr] at e
    rcases hn : s.nextAnswer with _ | ⟨v, late⟩
    · refine .inr (.inr (.inl ⟨hready, rfl, ?_⟩))
      rw [e]; simp [driveScan, hn, State.scanned, busWidth]
    · refine .inr (.inr (.inr ⟨hready, v, late, rfl, ?_⟩))
      rw [e]; simp [driveScan, hn, State.scanned, busWidth]
  · exact .inl ⟨_, andThen_refused (requireSession_failed ha' hf)⟩

/-- A scan that is delivered (R150). -/
theorem scanProc_ok {v : Nat} {late : Bool} (h : BusReady s address) (ha : s.nextAnswer = .ok v late) :
    scanProc op address dataOut s =
      (.ok (responseCode (v % 2 ^ busWidth s), dataField (v % 2 ^ busWidth s)), s.scanned op address dataOut) := by
  have hr : ¬ 2 ^ s.addressBits.toNat ≤ address.toNat := by have := h.2.2; omega
  have e := andThen_ok (f := fun _ s =>
    if s.addressBits = 0#8 then raiseFatal .assertAddressBits s
    else if 2 ^ s.addressBits.toNat ≤ address.toNat then refuse (.addressRange address) s
    else driveScan op address dataOut s) (requireSession_open h.1)
  unfold scanProc
  rw [e, if_neg h.2.1, if_neg hr]
  simp [driveScan, ha, State.scanned, busWidth]

/-- A scan whose flush fails (R150, R222). -/
theorem scanProc_err (h : BusReady s address) (ha : s.nextAnswer = .err) :
    scanProc op address dataOut s =
      (.err .transportError, (s.scanned op address dataOut).recordFault .transportError) := by
  have hr : ¬ 2 ^ s.addressBits.toNat ≤ address.toNat := by have := h.2.2; omega
  have e := andThen_ok (f := fun _ s =>
    if s.addressBits = 0#8 then raiseFatal .assertAddressBits s
    else if 2 ^ s.addressBits.toNat ≤ address.toNat then refuse (.addressRange address) s
    else driveScan op address dataOut s) (requireSession_open h.1)
  unfold scanProc
  rw [e, if_neg h.2.1, if_neg hr]
  simp [driveScan, ha, State.scanned, busWidth]

/-- A scan before the geometry is known (R22). -/
theorem scanProc_assert (h : SessionOpen s) (hz : s.addressBits = 0#8) :
    scanProc op address dataOut s = (.err .assertAddressBits, s.recordFault .assertAddressBits) := by
  unfold scanProc
  rw [andThen_ok (requireSession_open h)]
  simp [hz]

/-- A scan to an address the bus cannot carry (R151). -/
theorem scanProc_range (h : SessionOpen s) (hz : s.addressBits ≠ 0#8) (hr : 2 ^ s.addressBits.toNat ≤ address.toNat) :
    scanProc op address dataOut s = (.refused (.addressRange address), s) := by
  unfold scanProc
  rw [andThen_ok (requireSession_open h)]
  simp [hz, hr]

/-- A scan in a detached block (R21). -/
theorem scanProc_detached (h : s.attached = false) :
    scanProc op address dataOut s = (.refused .notAttached, s) := by
  unfold scanProc; exact andThen_refused (requireSession_detached h)

/-- A scan in a failed session (R30). -/
theorem scanProc_failed {k : FatalKind} (ha : s.attached = true) (hf : s.fault = some k) :
    scanProc op address dataOut s = (.refused (.sessionFailed k), s) := by
  unfold scanProc; exact andThen_refused (requireSession_failed ha hf)

/-! ### Fields of the state after one driven scan -/

@[simp] theorem State.scanned_params : (s.scanned op address dataOut).params = s.params := rfl
@[simp] theorem State.scanned_attached : (s.scanned op address dataOut).attached = s.attached := rfl
@[simp] theorem State.scanned_addressBits : (s.scanned op address dataOut).addressBits = s.addressBits := rfl
@[simp] theorem State.scanned_lastAddress : (s.scanned op address dataOut).lastAddress = some address := rfl
@[simp] theorem State.scanned_lastOp : (s.scanned op address dataOut).lastOp = lastOpOf op := rfl
@[simp] theorem State.scanned_scratchSize : (s.scanned op address dataOut).scratchSize = s.scratchSize := rfl
@[simp] theorem State.scanned_scratchValidMask :
    (s.scanned op address dataOut).scratchValidMask = s.scratchValidMask := rfl
@[simp] theorem State.scanned_scratchMirror : (s.scanned op address dataOut).scratchMirror = s.scratchMirror := rfl
@[simp] theorem State.scanned_examined : (s.scanned op address dataOut).examined = s.examined := rfl
@[simp] theorem State.scanned_fault : (s.scanned op address dataOut).fault = s.fault := rfl
@[simp] theorem State.scanned_irSelect : (s.scanned op address dataOut).irSelect = s.irSelect := rfl
@[simp] theorem State.scanned_lifecycle : (s.scanned op address dataOut).lifecycle = s.lifecycle := rfl
@[simp] theorem State.scanned_retry : (s.scanned op address dataOut).retry = s.retry := rfl
@[simp] theorem State.scanned_scanQueue : (s.scanned op address dataOut).scanQueue = [] := rfl
@[simp] theorem State.scanned_log : (s.scanned op address dataOut).log = s.log := rfl
@[simp] theorem State.scanned_portTrace :
    (s.scanned op address dataOut).portTrace = s.portTrace ++ exchange s op address dataOut s.nextAnswer := by
  simp [State.scanned, exchange]
@[simp] theorem State.scanned_result : (s.scanned op address dataOut).result = s.result := rfl
@[simp] theorem State.scanned_commands : (s.scanned op address dataOut).commands = s.commands := rfl
@[simp] theorem State.scanned_answers : (s.scanned op address dataOut).answers = s.answers.tail := rfl
@[simp] theorem State.scanned_hookScripts : (s.scanned op address dataOut).hookScripts = s.hookScripts := rfl
@[simp] theorem State.scanned_timeoutExpired :
    (s.scanned op address dataOut).timeoutExpired = s.nextAnswer.late := rfl
@[simp] theorem State.scanned_draws :
    (s.scanned op address dataOut).draws = if s.answers.isEmpty then s.draws + 1 else s.draws := rfl
@[simp] theorem State.scanned_corePc : (s.scanned op address dataOut).corePc = s.corePc := rfl

/-- A scripted answer leaves the state of `driveScan` in closed form: only the cache, the queue, the record, the inputs and
the timeout sample have moved. -/
theorem State.scanned_scripted {a : Answer} {rest : List Answer} (h : s.answers = a :: rest) :
    s.scanned op address dataOut =
      { s with
        lastAddress := some address, lastOp := lastOpOf op, scanQueue := [],
        portTrace := s.portTrace ++ exchange s op address dataOut a, answers := rest, timeoutExpired := a.late } := by
  simp [State.scanned, exchange, State.flushed, State.cacheRequest, State.portShift, State.nextAnswer, h]

/-! ### What the retry loop makes of a response (R135, R152) -/

variable {n : Nat} {code : ResultCode} {data : DbusData} {l : RetryLoop}

theorem respond_bare (h : s.retry = none) : respond n code data s = (.ok (code, data), s) := by
  unfold respond; simp [h]

theorem respond_success (h : s.retry = some l) :
    respond n .success data s = (.ok (.success, data), s.setRetry none) := by
  unfold respond; simp [h]

theorem respond_noWrite (h : s.retry = some l) :
    respond n .noWrite data s =
      (.ok (.noWrite, data), (s.appendLog (.resultNoWrite l.op l.address)).setRetry none) := by
  unfold respond; simp [h]

theorem respond_failed (h : s.retry = some l) :
    respond n .failed data s =
      (.ok (.failed, data), (s.appendLog (.resultFailed l.op l.address)).setRetry none) := by
  unfold respond; simp [h]

theorem respond_timeout (h : s.retry = some l) (ht : timedOut s = true) :
    respond n .busy data s =
      (.err (.deviceUnresponsive l.op l.address), (s.setRetry none).recordFault (.deviceUnresponsive l.op l.address)) := by
  unfold respond; simp [h, ht]

theorem respond_ceiling (h : s.retry = some l) :
    respond 0 .busy data s =
      (.err (.deviceUnresponsive l.op l.address), (s.setRetry none).recordFault (.deviceUnresponsive l.op l.address)) := by
  unfold respond
  by_cases ht : timedOut s = true <;> simp [h, ht]

theorem respond_again (h : s.retry = some l) (ht : timedOut s = false) :
    respond (n + 1) .busy data s =
      (match scanProc l.op l.address l.dataOut (s.setRetry (some { l with retries := l.retries + 1 })) with
      | (.ok (c, d), s1) => respond n c d s1
      | (.err k, s1) => leaveLoop (.err k) s1
      | (.refused k, s1) => leaveLoop (.refused k) s1) := by
  rw [respond]; simp only [h, ht]; rfl

/-- A terminal response ends the loop with its log record, if any. -/
theorem respond_terminal (h : s.retry = some l) (hc : code ≠ .busy) :
    respond n code data s =
      (.ok (code, data), { s with retry := none, log := s.log ++ softLog l.op l.address (some code) }) := by
  cases code with
  | success => rw [respond_success h]; simp [softLog, State.setRetry]
  | noWrite => rw [respond_noWrite h]; simp [softLog, State.setRetry, State.appendLog]
  | failed => rw [respond_failed h]; simp [softLog, State.setRetry, State.appendLog]
  | busy => exact absurd rfl hc

/-- The retry loop opens and treats the response of its first scan (R152). -/
theorem scanRetry_ok {c : ResultCode} {d : DbusData} {s1 : State}
    (h : scanProc op address dataOut (s.setRetry (some ⟨op, address, dataOut, 0⟩)) = (.ok (c, d), s1)) :
    scanRetry op address dataOut s = receive c d s1 := by
  simp only [scanRetry, h]

theorem scanRetry_err {k : FatalKind} {s1 : State}
    (h : scanProc op address dataOut (s.setRetry (some ⟨op, address, dataOut, 0⟩)) = (.err k, s1)) :
    scanRetry op address dataOut s = (.err k, s1.setRetry none) := by
  simp only [scanRetry, h, leaveLoop_apply]

theorem scanRetry_refused {k : RefusalKind} {s1 : State}
    (h : scanProc op address dataOut (s.setRetry (some ⟨op, address, dataOut, 0⟩)) = (.refused k, s1)) :
    scanRetry op address dataOut s = (.refused k, s1.setRetry none) := by
  simp only [scanRetry, h, leaveLoop_apply]

end Sys2Proof.Machine
end

