-- ==== Sys2Proof/Laws/Retry.lean ====
section
/-! SUPPORT. Sys2Proof/Laws/Retry.lean: the retry loop on scripted answers in closed form (spec/42_dbus_access_engine.md R152, R156):
BUSY answers repeat the identical request, the first other answer ends the loop, the ceiling and a failed flush stop it. -/

namespace Sys2Proof.Machine

variable {op : WireOp} {address : DbusAddr} {dataOut : DbusData}

/-- One turn of the loop: scan the loop's request, then treat the response with `n` more scans allowed. -/
def loopTurn (op : WireOp) (address : DbusAddr) (dataOut : DbusData) (n : Nat) : Proc (ResultCode × DbusData) := fun s =>
  match scanProc op address dataOut s with
  | (.ok (c, d), s1) => respond n c d s1
  | (.err k, s1) => leaveLoop (.err k) s1
  | (.refused k, s1) => leaveLoop (.refused k) s1

/-- One driven scan before a piece of a loop belongs to that piece. -/
theorem State.driven_scanned {s : State} {b : Answer} {more : List Answer} (hs : s.answers = b :: more)
    (r : Option RetryLoop) (used rest : List Answer) (late : Bool) :
    ((s.scanned op address dataOut).setRetry r).driven op address dataOut used rest late =
      { s.driven op address dataOut (b :: used) rest late with retry := r } := by
  have h : exchanges ((s.scanned op address dataOut).setRetry r) op address dataOut used =
      exchanges s op address dataOut used := rfl
  rw [State.driven, h, State.scanned_scripted hs]
  simp [State.driven, State.setRetry, exchanges]

theorem timedOut_scanned {s : State} {a : Answer} (hs : s.nextAnswer = a)
    (ht : s.params.opTimeout = none ∨ a.late = false) : timedOut (s.scanned op address dataOut) = false := by
  simp only [timedOut, State.scanned_params, State.scanned_timeoutExpired, hs]
  rcases ht with h | h <;> simp [h]

theorem answerCode_ok {s : State} {a : Answer} {c : ResultCode} (h : answerCode s a = some c) :
    ∃ v late, a = .ok v late ∧ responseCode (v % 2 ^ busWidth s) = c := by
  cases a with
  | err => simp [answerCode, answerVector] at h
  | ok v late => exact ⟨v, late, rfl, by simpa [answerCode, answerVector] using h⟩

/-- A turn answered BUSY, with a scan to spare, is the next turn of the same loop. -/
theorem loopTurn_busy {s : State} {b : Answer} {more : List Answer} {r n : Nat}
    (hr : BusReady s address) (hl : s.retry = some ⟨op, address, dataOut, r⟩)
    (hb : BusyAnswer s b) (hs : s.answers = b :: more) :
    loopTurn op address dataOut (n + 1) s =
      loopTurn op address dataOut n ((s.scanned op address dataOut).setRetry (some ⟨op, address, dataOut, r + 1⟩)) := by
  obtain ⟨v, late, rfl, hv⟩ := answerCode_ok hb.1
  have hn := State.nextAnswer_of_answers hs
  rw [loopTurn]
  simp only [scanProc_ok hr hn, hv]
  rw [respond_again (l := ⟨op, address, dataOut, r⟩) (by simpa using hl) (timedOut_scanned hn hb.2)]
  rfl

/-- The loop on BUSY answers and then a final one, from any turn of it. -/
theorem loopTurn_terminal {a : Answer} {c : ResultCode} {rest : List Answer} (bs : List Answer) :
    ∀ (s : State) (r n : Nat), BusReady s address → s.retry = some ⟨op, address, dataOut, r⟩ →
      (∀ b ∈ bs, BusyAnswer s b) → bs.length ≤ n → answerCode s a = some c → c ≠ .busy →
      s.answers = bs ++ a :: rest →
      loopTurn op address dataOut n s =
        (.ok (c, answerData s a),
          { s.driven op address dataOut (bs ++ [a]) rest a.late with
            retry := none, log := s.log ++ softLog op address (some c) }) := by
  induction bs with
  | nil =>
    intro s r n hr hl _ _ hc hne hs
    obtain ⟨v, late, rfl, hv⟩ := answerCode_ok hc
    have hn := State.nextAnswer_of_answers hs
    rw [loopTurn]
    simp only [scanProc_ok hr hn, hv]
    rw [respond_terminal (l := ⟨op, address, dataOut, r⟩) (by simpa using hl) hne]
    rw [State.scanned_scripted hs]
    simp [State.driven, exchanges, answerData, answerVector]
  | cons b bs ih =>
    intro s r n hr hl hb hlen hc hne hs
    obtain ⟨m, rfl⟩ : ∃ m, n = m + 1 := ⟨n - 1, by simp at hlen; omega⟩
    have hs' : s.answers = b :: (bs ++ a :: rest) := by simpa using hs
    rw [loopTurn_busy hr hl (hb b (by simp)) hs']
    rw [ih ((s.scanned op address dataOut).setRetry (some ⟨op, address, dataOut, r + 1⟩)) (r + 1) m hr rfl
      (fun x hx => hb x (by simp [hx])) (by simpa using hlen) hc hne (by simp [hs])]
    rw [State.driven_scanned hs']
    rfl

theorem timedOut_late {s : State} {a : Answer} (hs : s.nextAnswer = a) (ho : s.params.opTimeout.isSome = true)
    (ha : a.late = true) : timedOut (s.scanned op address dataOut) = true := by
  simp [timedOut, hs, ho, ha]

/-- The loop answered BUSY once too often, or once the optional time has run out (R152, R227, D11). -/
theorem loopTurn_givesUp (bs : List Answer) :
    ∀ (s : State) (r n : Nat) (b : Answer) (rest : List Answer), BusReady s address →
      s.retry = some ⟨op, address, dataOut, r⟩ → (∀ x ∈ bs, BusyAnswer s x) → answerCode s b = some .busy →
      (bs.length = n ∨ (bs.length < n ∧ s.params.opTimeout.isSome = true ∧ b.late = true)) →
      s.answers = bs ++ b :: rest →
      loopTurn op address dataOut n s =
        (.err (.deviceUnresponsive op address),
          { s.driven op address dataOut (bs ++ [b]) rest b.late with
            retry := none, fault := some (.deviceUnresponsive op address) }) := by
  induction bs with
  | nil =>
    intro s r n b rest hr hl _ hb hend hs
    obtain ⟨v, late, rfl, hv⟩ := answerCode_ok hb
    have hn := State.nextAnswer_of_answers hs
    have e : ∀ d, respond n .busy d (s.scanned op address dataOut) =
        (.err (.deviceUnresponsive op address), ((s.scanned op address dataOut).setRetry none).recordFault
          (.deviceUnresponsive op address)) := by
      intro d
      rcases hend with rfl | ⟨_, ho, hlate⟩
      · exact respond_ceiling (l := ⟨op, address, dataOut, r⟩) (by simpa using hl)
      · exact respond_timeout (l := ⟨op, address, dataOut, r⟩) (by simpa using hl) (timedOut_late hn ho hlate)
    rw [loopTurn]
    simp only [scanProc_ok hr hn, hv]
    rw [e, State.scanned_scripted hs]
    simp [State.driven, exchanges, State.setRetry, State.recordFault, hr.1.2]
  | cons x bs ih =>
    intro s r n b rest hr hl hb hbb hend hs
    obtain ⟨m, rfl⟩ : ∃ m, n = m + 1 := ⟨n - 1, by simp at hend; omega⟩
    have hs' : s.answers = x :: (bs ++ b :: rest) := by simpa using hs
    rw [loopTurn_busy hr hl (hb x (by simp)) hs']
    rw [ih ((s.scanned op address dataOut).setRetry (some ⟨op, address, dataOut, r + 1⟩))
      (r + 1) m b rest hr rfl (fun y hy => hb y (by simp [hy])) hbb (by simpa using hend) (by simp [hs])]
    rw [State.driven_scanned hs']
    rfl

/-- The loop cut short by a failed flush (R222). -/
theorem loopTurn_transport (bs : List Answer) :
    ∀ (s : State) (r n : Nat) (rest : List Answer), BusReady s address →
      s.retry = some ⟨op, address, dataOut, r⟩ → (∀ x ∈ bs, BusyAnswer s x) → bs.length ≤ n →
      s.answers = bs ++ .err :: rest →
      loopTurn op address dataOut n s =
        (.err .transportError,
          { s.driven op address dataOut (bs ++ [.err]) rest false with
            retry := none, fault := some .transportError }) := by
  induction bs with
  | nil =>
    intro s r n rest hr hl _ _ hs
    have hn := State.nextAnswer_of_answers hs
    rw [loopTurn]
    simp only [scanProc_err hr hn]
    rw [State.scanned_scripted hs]
    simp [State.driven, exchanges, State.setRetry, State.recordFault, hr.1.2, Answer.late]
  | cons x bs ih =>
    intro s r n rest hr hl hb hlen hs
    obtain ⟨m, rfl⟩ : ∃ m, n = m + 1 := ⟨n - 1, by simp at hlen; omega⟩
    have hs' : s.answers = x :: (bs ++ .err :: rest) := by simpa using hs
    rw [loopTurn_busy hr hl (hb x (by simp)) hs']
    rw [ih ((s.scanned op address dataOut).setRetry (some ⟨op, address, dataOut, r + 1⟩))
      (r + 1) m rest hr rfl (fun y hy => hb y (by simp [hy])) (by simpa using hlen) (by simp [hs])]
    rw [State.driven_scanned hs']
    rfl

/-! ### `scan_retry` from its start -/

/-- A delivered first response is treated with `MAX_RETRIES` scans to spare (R152). -/
theorem scanRetry_eq_loopTurn {s : State} :
    scanRetry op address dataOut s =
      loopTurn op address dataOut s.params.maxRetries (s.setRetry (some ⟨op, address, dataOut, 0⟩)) := by
  have key : ∀ c d s1, s1.retry = some ⟨op, address, dataOut, 0⟩ → s1.params = s.params →
      receive c d s1 = respond s.params.maxRetries c d s1 := by
    intro c d s1 h1 h2
    simp [receive, retriesLeft, h1, h2]
  rcases scanProc_cases (s.setRetry (some ⟨op, address, dataOut, 0⟩)) op address dataOut with
    ⟨k, h⟩ | ⟨_, _, h⟩ | ⟨_, _, h⟩ | ⟨_, v, late, _, h⟩
  · rw [scanRetry_refused h]; simp [loopTurn, h]
  · rw [scanRetry_err h]; simp [loopTurn, h]
  · rw [scanRetry_err h]; simp [loopTurn, h]
  · rw [scanRetry_ok h, key _ _ _ (by simp) (by simp)]; simp [loopTurn, h]

/-- BUSY up to `MAX_RETRIES` times, then a final answer: the loop returns it, having sent the identical request once for
each answer (R152, R156). -/
theorem scanRetry_terminal {s : State} {bs rest : List Answer} {a : Answer} {c : ResultCode}
    (hr : BusReady s address) (hb : ∀ b ∈ bs, BusyAnswer s b) (hlen : bs.length ≤ s.params.maxRetries)
    (hc : answerCode s a = some c) (hne : c ≠ .busy) (hs : s.answers = bs ++ a :: rest) :
    scanRetry op address dataOut s =
      (.ok (c, answerData s a),
        { s.driven op address dataOut (bs ++ [a]) rest a.late with
          retry := none, log := s.log ++ softLog op address (some c) }) := by
  rw [scanRetry_eq_loopTurn,
    loopTurn_terminal (a := a) (c := c) (rest := rest) bs
      (s.setRetry (some ⟨op, address, dataOut, 0⟩)) 0 s.params.maxRetries hr rfl hb hlen hc hne hs]
  rfl

/-- BUSY to the last permitted scan, or past the optional time: `DeviceUnresponsive` (R152, R227). -/
theorem scanRetry_givesUp {s : State} {bs rest : List Answer} {b : Answer}
    (hr : BusReady s address) (hg : GivesUp s bs b) (hs : s.answers = bs ++ b :: rest) :
    scanRetry op address dataOut s =
      (.err (.deviceUnresponsive op address),
        { s.driven op address dataOut (bs ++ [b]) rest b.late with
          retry := none, fault := some (.deviceUnresponsive op address) }) := by
  rw [scanRetry_eq_loopTurn, loopTurn_givesUp bs (s.setRetry (some ⟨op, address, dataOut, 0⟩)) 0 s.params.maxRetries b rest hr
    rfl hg.1 hg.2.1 hg.2.2 hs]
  rfl

/-- A loop before the geometry is known (R22). -/
theorem scanRetry_assert {s : State} (ho : SessionOpen s) (hr : s.retry = none) (hz : s.addressBits = 0#8) :
    scanRetry op address dataOut s = (.err .assertAddressBits, { s with fault := some .assertAddressBits }) := by
  rw [scanRetry_err (scanProc_assert ho hz)]
  simp [State.setRetry, State.recordFault, ho.2, ← hr]

/-- A loop to an address the bus cannot carry (R151). -/
theorem scanRetry_range {s : State} (ho : SessionOpen s) (hr : s.retry = none) (hz : s.addressBits ≠ 0#8)
    (h : 2 ^ s.addressBits.toNat ≤ address.toNat) :
    scanRetry op address dataOut s = (.refused (.addressRange address), s) := by
  rw [scanRetry_refused (scanProc_range ho hz h)]
  simp [State.setRetry, ← hr]

/-- A failed flush ends the loop at once, whatever was still allowed (R222). -/
theorem scanRetry_transport {s : State} {bs rest : List Answer}
    (hr : BusReady s address) (hb : ∀ x ∈ bs, BusyAnswer s x) (hlen : bs.length ≤ s.params.maxRetries)
    (hs : s.answers = bs ++ .err :: rest) :
    scanRetry op address dataOut s =
      (.err .transportError,
        { s.driven op address dataOut (bs ++ [.err]) rest false with
          retry := none, fault := some .transportError }) := by
  rw [scanRetry_eq_loopTurn,
    loopTurn_transport bs (s.setRetry (some ⟨op, address, dataOut, 0⟩)) 0 s.params.maxRetries rest hr rfl hb hlen hs]
  rfl

end Sys2Proof.Machine
end

