-- ==== Sys2Proof/Laws/Access.lean ====
section
/-! SUPPORT. Sys2Proof/Laws/Access.lean: `read`, `write` and the Debug RAM commands on scripted answers in closed form (spec/42 R153 to
R155, 43 R172 to R178), for the cache hit and the cache miss alike. -/

namespace Sys2Proof.Machine

variable {s : State} {address : DbusAddr} {pre bs rest : List Answer} {y : Answer}

theorem FinalAnswer.code (h : FinalAnswer s y) : ∃ c, answerCode s y = some c ∧ c ≠ .busy := by
  rcases hc : answerCode s y with _ | c
  · exact absurd hc h.1
  · exact ⟨c, rfl, fun e => h.2 (by rw [hc, e])⟩

/-- Address 0 fits every bus (R64). -/
theorem BusReady.zero (ho : SessionOpen s) (hz : s.addressBits ≠ 0#8) : BusReady s 0#16 :=
  ⟨ho, hz, by simp⟩

theorem endCode_concat : endCode s (bs ++ [y]) = answerCode s y := by simp [endCode]

theorem endCode_nil : endCode s [] = none := rfl

/-- `s` as the address phase leaves it for the data phase. -/
def State.afterPhase (s : State) (address : DbusAddr) (pre : List Answer) (more : List Answer) : State :=
  match pre.getLast? with
  | none => s
  | some x =>
    { s.driven .read address 0#34 pre more x.late with
      retry := none, log := s.log ++ softLog .read address (answerCode s x) }

/-- The address phase, hit or miss (R153). -/
theorem addressPhase_ok (ho : SessionOpen s) (hz : s.addressBits ≠ 0#8) {more : List Answer}
    (hp : AddressPhaseAnswers s address pre) (hs : s.answers = pre ++ more) :
    addressPhase address s = (.ok (), s.afterPhase address pre more) := by
  rcases hp with ⟨hh, rfl⟩ | ⟨hh, hf, bs, x, rfl, hb, hl, hx⟩
  · simp [addressPhase, hh, State.afterPhase]
  · obtain ⟨c, hc, hne⟩ := hx.code
    have e := scanRetry_terminal (op := .read) (dataOut := 0#34) (rest := more) ⟨ho, hz, hf⟩ hb hl hc hne
      (by simpa using hs)
    simp only [addressPhase, hh, Bool.false_eq_true, if_false]
    rw [andThen_ok e]
    simp [State.afterPhase, hc]

/-- After the address phase the session is open on the same bus, and only the port side has moved. -/
theorem afterPhase_ready (ho : SessionOpen s) (hz : s.addressBits ≠ 0#8) {more : List Answer} :
    BusReady (s.afterPhase address pre more) 0#16 := by
  unfold State.afterPhase
  split
  · exact BusReady.zero ho hz
  · exact BusReady.zero ho hz

theorem afterPhase_answers {more : List Answer} (hs : s.answers = pre ++ more) :
    (s.afterPhase address pre more).answers = more := by
  unfold State.afterPhase
  split
  · next h => simp at h; simpa [h] using hs
  · rfl

theorem afterPhase_params {more : List Answer} : (s.afterPhase address pre more).params = s.params := by
  unfold State.afterPhase; split <;> rfl

theorem afterPhase_addressBits {more : List Answer} :
    (s.afterPhase address pre more).addressBits = s.addressBits := by
  unfold State.afterPhase; split <;> rfl

theorem answerCode_congr {t : State} (h : t.addressBits = s.addressBits) : answerCode t y = answerCode s y := by
  cases y <;> simp [answerCode, answerVector, busWidth, h]

theorem answerData_congr {t : State} (h : t.addressBits = s.addressBits) : answerData t y = answerData s y := by
  cases y <;> simp [answerData, answerVector, busWidth, h]

theorem busyAnswer_congr {t : State} (h : t.addressBits = s.addressBits) (hp : t.params = s.params) (hb : BusyAnswer s y) :
    BusyAnswer t y := ⟨by rw [answerCode_congr h]; exact hb.1, by rw [hp]; exact hb.2⟩

theorem finalAnswer_congr {t : State} (h : t.addressBits = s.addressBits) (hy : FinalAnswer s y) : FinalAnswer t y := by
  unfold FinalAnswer; rw [answerCode_congr h]; exact hy

theorem exchanges_congr {t : State} (h : t.addressBits = s.addressBits) (op : WireOp) (a : DbusAddr) (d : DbusData)
    (used : List Answer) : exchanges t op a d used = exchanges s op a d used := by
  have e : exchange t op a d = exchange s op a d := by funext x; simp [exchange, busWidth, h]
  rw [exchanges, e, exchanges]

/-- The state of the data phase, told from the state before the read. -/
theorem afterPhase_driven {more : List Answer} :
    { (s.afterPhase address pre more).driven .read 0#16 0#34 (bs ++ [y]) rest y.late with
      retry := none,
      log := (s.afterPhase address pre more).log ++ softLog .read 0#16 (answerCode (s.afterPhase address pre more) y) } =
    s.readDone address pre bs y rest := by
  have he := exchanges_congr (afterPhase_addressBits (s := s) (address := address) (pre := pre) (more := more)) .read
    0#16 0#34 (bs ++ [y])
  have hc := answerCode_congr (y := y) (afterPhase_addressBits (s := s) (address := address) (pre := pre) (more := more))
  rw [State.driven, he, hc]
  unfold State.afterPhase State.readDone endCode
  split
  · next h => simp at h; simp [h, exchanges, softLog, lastOpOf]
  · next x h => simp [h, State.driven, lastOpOf]

/-- `read`, hit or miss, ending normally (R153, R154, R156). -/
theorem readProc_ok (ho : SessionOpen s) (hz : s.addressBits ≠ 0#8) (hp : AddressPhaseAnswers s address pre)
    (hb : ∀ b ∈ bs, BusyAnswer s b) (hl : bs.length ≤ s.params.maxRetries) (hy : FinalAnswer s y)
    (hs : s.answers = pre ++ (bs ++ y :: rest)) :
    readProc address s = (.ok ((answerData s y).zeroExtend 64), s.readDone address pre bs y rest) := by
  obtain ⟨c, hc, hne⟩ := hy.code
  have ha := afterPhase_addressBits (s := s) (address := address) (pre := pre) (more := bs ++ y :: rest)
  have hp' := afterPhase_params (s := s) (address := address) (pre := pre) (more := bs ++ y :: rest)
  have e := scanRetry_terminal (s := s.afterPhase address pre (bs ++ y :: rest)) (op := .read) (dataOut := 0#34)
    (bs := bs) (a := y) (c := c) (rest := rest) (afterPhase_ready ho hz)
    (fun b hm => busyAnswer_congr ha hp' (hb b hm)) (by rw [hp']; exact hl)
    (by rw [answerCode_congr ha]; exact hc) hne (afterPhase_answers hs)
  rw [← hc, ← answerCode_congr ha, afterPhase_driven, answerData_congr ha] at e
  rw [readProc, andThen_ok (addressPhase_ok ho hz hp hs), andThen_ok e]
  rfl

/-- `read` whose address phase, run on a miss, does not end normally: it ends as that loop does (R11, R154). -/
theorem readProc_missErr {k : FatalKind} {t : State} (hc : cacheHit s address = false)
    (e : scanRetry .read address 0#34 s = (.err k, t)) : readProc address s = (.err k, t) := by
  rw [readProc, andThen_err]
  simp only [addressPhase, hc, Bool.false_eq_true, if_false, andThen_err e]

theorem readProc_missRefused {k : RefusalKind} {t : State} (hc : cacheHit s address = false)
    (e : scanRetry .read address 0#34 s = (.refused k, t)) : readProc address s = (.refused k, t) := by
  rw [readProc, andThen_refused]
  simp only [addressPhase, hc, Bool.false_eq_true, if_false, andThen_refused e]

/-- `read` before the geometry is known, hit or miss (R22). -/
theorem readProc_assert (ho : SessionOpen s) (hr : s.retry = none) (hz : s.addressBits = 0#8) :
    readProc address s = (.err .assertAddressBits, { s with fault := some .assertAddressBits }) := by
  by_cases hc : cacheHit s address = true
  · rw [readProc, andThen_ok (a := ()) (s1 := s) (by simp [addressPhase, hc]), andThen_err (scanRetry_assert ho hr hz)]
  · exact readProc_missErr (by simpa using hc) (scanRetry_assert ho hr hz)

/-- `read` whose data phase does not end normally: it ends as that loop does, run from where the address phase left it. -/
theorem readProc_dataErr {k : FatalKind} {t : State} {more : List Answer} (ho : SessionOpen s) (hz : s.addressBits ≠ 0#8)
    (hp : AddressPhaseAnswers s address pre) (hs : s.answers = pre ++ more)
    (e : scanRetry .read 0#16 0#34 (s.afterPhase address pre more) = (.err k, t)) : readProc address s = (.err k, t) := by
  rw [readProc, andThen_ok (addressPhase_ok ho hz hp hs), andThen_err e]

/-- `read` whose data phase is BUSY to the ceiling, or past the optional time (R152, R154). -/
theorem readProc_givesUp (ho : SessionOpen s) (hz : s.addressBits ≠ 0#8) (hp : AddressPhaseAnswers s address pre)
    (hg : GivesUp s bs y) (hs : s.answers = pre ++ (bs ++ y :: rest)) :
    readProc address s =
      (.err (.deviceUnresponsive .read 0#16),
        { s.readDone address pre bs y rest with fault := some (.deviceUnresponsive .read 0#16) }) := by
  have ha := afterPhase_addressBits (s := s) (address := address) (pre := pre) (more := bs ++ y :: rest)
  have hp' := afterPhase_params (s := s) (address := address) (pre := pre) (more := bs ++ y :: rest)
  rw [readProc_dataErr ho hz hp hs (scanRetry_givesUp (afterPhase_ready ho hz)
    ⟨fun b hm => busyAnswer_congr ha hp' (hg.1 b hm), by rw [answerCode_congr ha]; exact hg.2.1, by rw [hp']; exact hg.2.2⟩
    (afterPhase_answers hs)), ← afterPhase_driven (more := bs ++ y :: rest), answerCode_congr ha, hg.2.1]
  simp [softLog, State.driven]

/-- `read` whose data phase meets a failed flush (R154, R222). -/
theorem readProc_transport (ho : SessionOpen s) (hz : s.addressBits ≠ 0#8) (hp : AddressPhaseAnswers s address pre)
    (hb : ∀ b ∈ bs, BusyAnswer s b) (hl : bs.length ≤ s.params.maxRetries) (hs : s.answers = pre ++ (bs ++ .err :: rest)) :
    readProc address s =
      (.err .transportError, { s.readDone address pre bs .err rest with fault := some .transportError }) := by
  have ha := afterPhase_addressBits (s := s) (address := address) (pre := pre) (more := bs ++ .err :: rest)
  have hp' := afterPhase_params (s := s) (address := address) (pre := pre) (more := bs ++ .err :: rest)
  rw [readProc_dataErr ho hz hp hs (scanRetry_transport (afterPhase_ready ho hz)
    (fun b hm => busyAnswer_congr ha hp' (hb b hm)) (by rw [hp']; exact hl) (afterPhase_answers hs)),
    ← afterPhase_driven (more := bs ++ .err :: rest)]
  simp [softLog, State.driven, answerCode, answerVector, Answer.late]

/-- `write` ending normally (R155, R156). -/
theorem writeProc_ok {v : DbusData} (hr : BusReady s address) (hb : ∀ b ∈ bs, BusyAnswer s b)
    (hl : bs.length ≤ s.params.maxRetries) {c : ResultCode} (hc : answerCode s y = some c) (hne : c ≠ .busy)
    (hs : s.answers = bs ++ y :: rest) :
    writeProc address v s = (.ok c,
      { s.driven .write address v (bs ++ [y]) rest y.late with
        retry := none, log := s.log ++ softLog .write address (answerCode s y) }) := by
  rw [writeProc, andThen_ok (scanRetry_terminal hr hb hl hc hne hs), hc]
  rfl

/-- `read_word`, hit or miss (R172). -/
theorem readWordProc_ok {index : Word} (ho : SessionOpen s) (hz : s.addressBits ≠ 0#8) (hi : index < s.scratchSize)
    (hp : AddressPhaseAnswers s (slotAddress index) pre) (hb : ∀ b ∈ bs, BusyAnswer s b)
    (hl : bs.length ≤ s.params.maxRetries) (hy : FinalAnswer s y) (hs : s.answers = pre ++ (bs ++ y :: rest)) :
    readWordProc index s =
      (.ok (lowWord ((answerData s y).zeroExtend 64)), s.readDone (slotAddress index) pre bs y rest) := by
  rw [readWordProc, andThen_ok (requireSession_open ho), andThen_ok (requireIndex_legal hi),
    andThen_ok (readProc_ok ho hz hp hb hl hy hs)]
  rfl

/-- The 32 bits a Debug RAM read keeps of the 34 that came (R180). -/
theorem lowWord_zeroExtend (d : DbusData) : lowWord (d.zeroExtend 64) = d.extractLsb' 0 32 := by
  apply BitVec.eq_of_toNat_eq
  have := d.isLt
  simp [lowWord, BitVec.extractLsb'_toNat]

/-- `write_word` (R174). -/
theorem writeWordProc_ok {index value : Word} {f : Bool} (hr : BusReady s (slotAddress index)) (hi : index < s.scratchSize)
    (hb : ∀ b ∈ bs, BusyAnswer s b) (hl : bs.length ≤ s.params.maxRetries) (hy : FinalAnswer s y)
    (hs : s.answers = bs ++ y :: rest) :
    writeWordProc index value f s = (.ok (),
      ({ s.driven .write (slotAddress index) (wdata value f) (bs ++ [y]) rest y.late with
        retry := none, log := s.log ++ softLog .write (slotAddress index) (answerCode s y) } : State).writeMirror
          index.toNat value (decide (answerCode s y = some .success))) := by
  obtain ⟨c, hc, hne⟩ := hy.code
  rw [writeWordProc, andThen_ok (requireSession_open hr.1), andThen_ok (requireIndex_legal hi),
    andThen_ok (writeProc_ok hr hb hl hc hne hs)]
  simp [hc]

/-- `write_resume_jump` with a legal offset is the `write_word` of the encoded jump (R178). -/
theorem writeResumeJumpProc_legal {index : Word} {f : Bool} (ho : SessionOpen s) (hi : index < s.scratchSize)
    (hj : jumpOffsetLegal (jumpOffset s.params index) = true) :
    writeResumeJumpProc index f s = writeWordProc index (resumeJumpWord s.params index) f s := by
  rw [writeResumeJumpProc, andThen_ok (requireSession_open ho), andThen_ok (requireIndex_legal hi)]
  rw [andThen_ok (a := ()) (s1 := s) (by simp [requireJump, hj])]

end Sys2Proof.Machine
end

