-- ==== Sys2Proof/Laws/Codec.lean ====
section
/-! SUPPORT. Sys2Proof/Laws/Codec.lean: the vectors of spec/30_encoding.md as sums of their fields, and each field read back. -/

namespace Sys2Proof

@[simp] theorem WireOp.ofCode_code (op : WireOp) : WireOp.ofCode op.code = op := by cases op <;> rfl

@[simp] theorem ResultCode.ofCode_code (c : ResultCode) : ResultCode.ofCode c.code = c := by cases c <;> rfl

theorem WireOp.code_lt (op : WireOp) : op.code < 4 := by cases op <;> decide

theorem ResultCode.code_lt (c : ResultCode) : c.code < 4 := by cases c <;> decide

theorem WireOp.code_ofCode (n : Nat) (h : n < 4) : (WireOp.ofCode n).code = n := by
  interval_cases n <;> rfl

theorem ResultCode.code_ofCode (n : Nat) (h : n < 4) : (ResultCode.ofCode n).code = n := by
  interval_cases n <;> rfl

/-- An or of a shifted number and one below the shift is their sum. -/
theorem shiftLeft_or_eq_add (hi lo k : Nat) (h : lo < 2 ^ k) : (hi <<< k) ||| lo = hi * 2 ^ k + lo := by
  rw [Nat.shiftLeft_eq, Nat.mul_comm, ← Nat.two_pow_add_eq_or_of_lt h]

/-- The three fields of a debug-bus vector are disjoint, so their or is a sum (R96, R109). -/
theorem vector_eq_add (a : DbusAddr) (d : DbusData) (c : Nat) (h : c < 4) :
    (a.toNat <<< 36) ||| (d.toNat <<< 2) ||| c = a.toNat * 2 ^ 36 + (d.toNat * 2 ^ 2 + c) := by
  have hd := d.isLt
  rw [Nat.or_assoc, shiftLeft_or_eq_add _ _ 2 (by omega), shiftLeft_or_eq_add _ _ 36 (by omega)]

theorem assemble_eq (op : WireOp) (a : DbusAddr) (d : DbusData) :
    assemble op a d = a.toNat * 2 ^ 36 + (d.toNat * 2 ^ 2 + op.code) := vector_eq_add a d _ op.code_lt

theorem response_eq (c : ResultCode) (a : DbusAddr) (d : DbusData) :
    response c a d = a.toNat * 2 ^ 36 + (d.toNat * 2 ^ 2 + c.code) := vector_eq_add a d _ c.code_lt

/-! ### Fields of a sum -/

theorem lowField_sum (a : DbusAddr) (d : DbusData) (c : Nat) (h : c < 4) :
    lowField (a.toNat * 2 ^ 36 + (d.toNat * 2 ^ 2 + c)) = c := by
  unfold lowField; omega

theorem dataField_sum (a : DbusAddr) (d : DbusData) (c : Nat) (h : c < 4) :
    dataField (a.toNat * 2 ^ 36 + (d.toNat * 2 ^ 2 + c)) = d := by
  have hd := d.isLt
  apply BitVec.eq_of_toNat_eq
  simp only [dataField, BitVec.toNat_ofNat, Nat.shiftRight_eq_div_pow]
  omega

theorem addressField_sum (a : DbusAddr) (d : DbusData) (c : Nat) (h : c < 4) :
    addressField (a.toNat * 2 ^ 36 + (d.toNat * 2 ^ 2 + c)) = a := by
  have hd := d.isLt
  have ha := a.isLt
  apply BitVec.eq_of_toNat_eq
  simp only [addressField, BitVec.toNat_ofNat, Nat.shiftRight_eq_div_pow]
  omega

@[simp] theorem lowField_assemble (op : WireOp) (a : DbusAddr) (d : DbusData) : lowField (assemble op a d) = op.code := by
  rw [assemble_eq]; exact lowField_sum a d _ op.code_lt

@[simp] theorem dataField_assemble (op : WireOp) (a : DbusAddr) (d : DbusData) : dataField (assemble op a d) = d := by
  rw [assemble_eq]; exact dataField_sum a d _ op.code_lt

@[simp] theorem addressField_assemble (op : WireOp) (a : DbusAddr) (d : DbusData) :
    addressField (assemble op a d) = a := by
  rw [assemble_eq]; exact addressField_sum a d _ op.code_lt

@[simp] theorem lowField_response (c : ResultCode) (a : DbusAddr) (d : DbusData) : lowField (response c a d) = c.code := by
  rw [response_eq]; exact lowField_sum a d _ c.code_lt

@[simp] theorem dataField_response (c : ResultCode) (a : DbusAddr) (d : DbusData) : dataField (response c a d) = d := by
  rw [response_eq]; exact dataField_sum a d _ c.code_lt

@[simp] theorem addressField_response (c : ResultCode) (a : DbusAddr) (d : DbusData) :
    addressField (response c a d) = a := by
  rw [response_eq]; exact addressField_sum a d _ c.code_lt

@[simp] theorem responseCode_response (c : ResultCode) (a : DbusAddr) (d : DbusData) :
    responseCode (response c a d) = c := by simp [responseCode]

theorem assemble_lt (op : WireOp) (a : DbusAddr) (d : DbusData) : assemble op a d < 2 ^ 52 := by
  have := op.code_lt; have := d.isLt; have := a.isLt
  rw [assemble_eq]; omega

theorem response_lt (c : ResultCode) (a : DbusAddr) (d : DbusData) : response c a d < 2 ^ 52 := by
  have := c.code_lt; have := d.isLt; have := a.isLt
  rw [response_eq]; omega

/-! ### The address field of a response is dropped (R97, D7): only its low 36 bits matter -/

theorem lowField_mod {v n : Nat} (h : 36 ≤ n) : lowField (v % 2 ^ n) = lowField v := by
  unfold lowField
  have : (4 : Nat) ∣ 2 ^ n := by
    have := Nat.pow_dvd_pow 2 (show 2 ≤ n by omega); simpa using this
  exact Nat.mod_mod_of_dvd v this

theorem dataField_mod {v n : Nat} (h : 36 ≤ n) : dataField (v % 2 ^ n) = dataField v := by
  apply BitVec.eq_of_toNat_eq
  have hd : (2 ^ 36 : Nat) ∣ 2 ^ n := Nat.pow_dvd_pow 2 h
  have e : v % 2 ^ n % 2 ^ 36 = v % 2 ^ 36 := Nat.mod_mod_of_dvd v hd
  simp only [dataField, BitVec.toNat_ofNat, Nat.shiftRight_eq_div_pow]
  generalize v % 2 ^ n = w at e
  omega

theorem responseCode_mod {v n : Nat} (h : 36 ≤ n) : responseCode (v % 2 ^ n) = responseCode v := by
  unfold responseCode; rw [lowField_mod h]

/-! ### The jump word as numbers (R103) -/

theorem toNat_append_eq_add {m n : Nat} (a : BitVec m) (b : BitVec n) : (a ++ b).toNat = a.toNat * 2 ^ n + b.toNat := by
  rw [BitVec.toNat_append, shiftLeft_or_eq_add _ _ n b.isLt]

theorem jumpBits_toNat (imm : BitVec 21) :
    (jumpBits imm).toNat = imm.toNat / 1048576 % 2 * 2147483648 + imm.toNat / 2 % 1024 * 2097152 +
      imm.toNat / 2048 % 2 * 1048576 + imm.toNat / 4096 % 256 * 4096 + 0x6F := by
  simp only [jumpBits, toNat_append_eq_add, BitVec.extractLsb'_toNat, BitVec.toNat_ofNat, Nat.shiftRight_eq_div_pow,
    Nat.reducePow]
  omega

theorem jumpImm_toNat (w : Word) :
    (jumpImm w).toNat = w.toNat / 2147483648 % 2 * 1048576 + w.toNat / 4096 % 256 * 4096 +
      w.toNat / 1048576 % 2 * 2048 + w.toNat / 2097152 % 1024 * 2 := by
  simp only [jumpImm, toNat_append_eq_add, BitVec.extractLsb'_toNat, BitVec.toNat_ofNat, Nat.shiftRight_eq_div_pow,
    Nat.reducePow]
  omega

/-- Each field of a jump word, as the offset bits it holds (R103). -/
theorem jumpBits_fields (imm : BitVec 21) :
    (jumpBits imm).toNat / 2147483648 % 2 = imm.toNat / 1048576 % 2 ∧
    (jumpBits imm).toNat / 4096 % 256 = imm.toNat / 4096 % 256 ∧
    (jumpBits imm).toNat / 1048576 % 2 = imm.toNat / 2048 % 2 ∧
    (jumpBits imm).toNat / 2097152 % 1024 = imm.toNat / 2 % 1024 := by
  have key : ∀ a b c d : Nat, a < 2 → b < 1024 → c < 2 → d < 256 → ∀ w : Nat,
      w = a * 2147483648 + b * 2097152 + c * 1048576 + d * 4096 + 0x6F →
      w / 2147483648 % 2 = a ∧ w / 4096 % 256 = d ∧ w / 1048576 % 2 = c ∧ w / 2097152 % 1024 = b := by omega
  exact key _ _ _ _ (by omega) (by omega) (by omega) (by omega) _ (jumpBits_toNat imm)

/-- An even offset image is read back from its jump word. -/
theorem jumpImm_jumpBits (imm : BitVec 21) (h : imm.getLsbD 0 = false) : jumpImm (jumpBits imm) = imm := by
  apply BitVec.eq_of_toNat_eq
  have h0 : imm.toNat % 2 = 0 := by simpa [BitVec.getLsbD, Nat.testBit_zero] using h
  have h1 := imm.isLt
  obtain ⟨ka, kd, kc, kb⟩ := jumpBits_fields imm
  have e1 : imm.toNat / 2048 = imm.toNat / 2 / 1024 := by rw [Nat.div_div_eq_div_mul]
  have e2 : imm.toNat / 4096 = imm.toNat / 2 / 1024 / 2 := by rw [Nat.div_div_eq_div_mul, Nat.div_div_eq_div_mul]
  have e3 : imm.toNat / 1048576 = imm.toNat / 2 / 1024 / 2 / 256 := by
    rw [Nat.div_div_eq_div_mul, Nat.div_div_eq_div_mul, Nat.div_div_eq_div_mul]
  rw [jumpImm_toNat, ka, kb, kc, kd, e3, e2, e1]
  clear ka kb kc kd e1 e2 e3
  omega

/-- A word with rd = x0 and opcode 0x6F is the jump word of the offset image it carries. -/
theorem jumpBits_jumpImm (w : Word) (h : w.toNat % 4096 = 0x6F) : jumpBits (jumpImm w) = w := by
  apply BitVec.eq_of_toNat_eq
  have h1 := w.isLt
  have key : ∀ a b c d : Nat, a < 2 → b < 1024 → c < 2 → d < 256 → ∀ m : Nat,
      m = a * 1048576 + d * 4096 + c * 2048 + b * 2 →
      m / 1048576 % 2 = a ∧ m / 4096 % 256 = d ∧ m / 2048 % 2 = c ∧ m / 2 % 1024 = b := by omega
  obtain ⟨ka, kd, kc, kb⟩ := key _ _ _ _ (by omega) (by omega) (by omega) (by omega) _ (jumpImm_toNat w)
  have e1 : w.toNat / 1048576 = w.toNat / 4096 / 256 := by rw [Nat.div_div_eq_div_mul]
  have e2 : w.toNat / 2097152 = w.toNat / 4096 / 256 / 2 := by rw [Nat.div_div_eq_div_mul, Nat.div_div_eq_div_mul]
  have e3 : w.toNat / 2147483648 = w.toNat / 4096 / 256 / 2 / 1024 := by
    rw [Nat.div_div_eq_div_mul, Nat.div_div_eq_div_mul, Nat.div_div_eq_div_mul]
  rw [jumpBits_toNat, ka, kb, kc, kd, e3, e2, e1]
  clear ka kb kc kd e1 e2 e3 key
  omega

theorem jumpBits_low (imm : BitVec 21) : (jumpBits imm).toNat % 4096 = 0x6F := by
  rw [jumpBits_toNat]; omega

theorem jumpImm_even (w : Word) : (jumpImm w).getLsbD 0 = false := by
  have h : (jumpImm w).toNat % 2 = 0 := by rw [jumpImm_toNat]; omega
  simpa [BitVec.getLsbD, Nat.testBit_zero] using h

/-! ### Command words (R105) -/

theorem commandWord_code (code rest : Nat) (h : code < 32) : (commandWord code rest).val % 32 = code := by
  simp only [commandWord]; rw [shiftLeft_or_eq_add _ _ 5 (by omega)]; omega

theorem commandWord_operands (code rest : Nat) (h : code < 32) : (commandWord code rest).val >>> 5 = rest := by
  simp only [commandWord]; rw [shiftLeft_or_eq_add _ _ 5 (by omega), Nat.shiftRight_eq_div_pow]; omega

theorem operands_fit {w r : Nat} {i : Instr} (h : r < 2 ^ w) : operands w r i = .ok i := by simp [operands, h]

/-- Three operand fields, the first lowest, as a sum. -/
theorem fields_eq_add (a b c j k : Nat) (hb : b < 2 ^ (k - j)) (hc : c < 2 ^ j) (hj : j ≤ k) :
    (a <<< k) ||| (b <<< j) ||| c = a * 2 ^ k + (b * 2 ^ j + c) := by
  have h1 : b * 2 ^ j + c < 2 ^ k := by
    have e : (2 : Nat) ^ k = 2 ^ (k - j) * 2 ^ j := by rw [← Nat.pow_add]; congr 1; omega
    have h2 : (b + 1) * 2 ^ j ≤ 2 ^ (k - j) * 2 ^ j := Nat.mul_le_mul_right _ hb
    rw [e]; rw [Nat.add_mul] at h2; omega
  rw [Nat.or_assoc, shiftLeft_or_eq_add _ _ j hc, shiftLeft_or_eq_add _ _ k h1]

namespace Machine

/-- A scripted response of the device, read back (R97). -/
@[simp] theorem answerCode_response (s : State) (c : ResultCode) (a : DbusAddr) (d : DbusData) (late : Bool) :
    answerCode s (.ok (response c a d) late) = some c := by
  simp [answerCode, answerVector, responseCode_mod (n := busWidth s) (by unfold busWidth; omega)]

@[simp] theorem answerData_response (s : State) (c : ResultCode) (a : DbusAddr) (d : DbusData) (late : Bool) :
    answerData s (.ok (response c a d) late) = d := by
  simp [answerData, answerVector, dataField_mod (n := busWidth s) (by unfold busWidth; omega)]

end Machine

end Sys2Proof
end

