-- ==== Sys2Proof/Laws/Frame.lean ====
section
/-! SUPPORT. Sys2Proof/Laws/Frame.lean: what the engine, the Debug RAM commands and the hooks leave alone (spec/42, 43, 60 R238), said
once as a relation between the state before and the state after, and proved once per shared procedure. -/

namespace Sys2Proof.Machine

/-! ### A hook, one command at a time (R238) -/

theorem runHook_ok {x : HookStep} {rest : List HookStep} {s s1 : State} {u : Unit}
    (h : hookCommand x.cmd s = (.ok u, s1)) : runHook (x :: rest) s = runHook rest s1 := by
  simp only [runHook, h]

theorem runHook_err {x : HookStep} {rest : List HookStep} {s s1 : State} {k : FatalKind}
    (h : hookCommand x.cmd s = (.err k, s1)) : runHook (x :: rest) s = (.err k, s1) := by
  simp only [runHook, h]

theorem runHook_refused {x : HookStep} {rest : List HookStep} {s s1 : State} {k : RefusalKind}
    (h : hookCommand x.cmd s = (.refused k, s1)) :
    runHook (x :: rest) s = if x.handOnRefusal then (.refused k, s1) else runHook rest s1 := by
  simp only [runHook, h]

/-- The three ends of a hook call (R235, R238). -/
theorem callHook_runs {n : HookName} {s t : State} (h : HookRuns n s t) : callHook n s = (.ok (), t) := by
  rcases h with ⟨h, rfl⟩ | ⟨h, e⟩ <;> simp [callHook, h]
  exact e

theorem callHook_err {n : HookName} {s t : State} {k : FatalKind} (h : s.params.hasHook n = true)
    (e : runHook s.nextHookScript (s.enterHook n) = (.err k, t)) : callHook n s = (.err k, t) := by
  simp only [callHook, h, if_true, e]

theorem callHook_refused {n : HookName} {s t : State} {k : RefusalKind} (h : s.params.hasHook n = true)
    (e : runHook s.nextHookScript (s.enterHook n) = (.refused k, t)) : callHook n s = (.refused k, t) := by
  simp only [callHook, h, if_true, e]

/-! ### The last request of a record -/

theorem lastRequest_append (a b : List PortEvent) : lastRequest (a ++ b) = (lastRequest b).or (lastRequest a) := by
  induction a with
  | nil => simp [lastRequest]
  | cons x a ih => cases x <;> simp [lastRequest, ih, Option.or_assoc]

theorem CacheTracks.trans {s t u : State} {a b : List PortEvent} (h : CacheTracks s t a) (g : CacheTracks t u b) :
    CacheTracks s u (a ++ b) := by
  unfold CacheTracks at *
  rw [lastRequest_append]
  rcases hb : lastRequest b with _ | ⟨op, ad⟩
  · rw [hb] at g
    rcases ha : lastRequest a with _ | ⟨op, ad⟩
    · rw [ha] at h; exact ⟨g.1.trans h.1, g.2.trans h.2⟩
    · rw [ha] at h; exact ⟨g.1.trans h.1, g.2.trans h.2⟩
  · rw [hb] at g; exact g

theorem lastRequest_exchange (s : State) (op : WireOp) (a : DbusAddr) (d : DbusData) (x : Answer) :
    lastRequest (exchange s op a d x) = some (op, a) := by
  have : busWidth s ≠ 32 := by unfold busWidth; omega
  simp [exchange, lastRequest, this]

/-- What every procedure below the lifecycle layer keeps: the parameters and geometry, the session and lifecycle registers it
does not own, the first fatal kind, the shape of the mirror; what it only adds to: the log and the port record, and every
data scan it adds has the debug-bus width of a known geometry. -/
structure EngineFrame (s t : State) : Prop where
  params : t.params = s.params
  attached : t.attached = s.attached
  addressBits : t.addressBits = s.addressBits
  scratchSize : t.scratchSize = s.scratchSize
  examined : t.examined = s.examined
  irSelect : t.irSelect = s.irSelect
  lifecycle : t.lifecycle = s.lifecycle
  commands : t.commands = s.commands
  result : t.result = s.result
  corePc : t.corePc = s.corePc
  fault : ∀ k, s.fault = some k → t.fault = some k
  maskLength : t.scratchValidMask.length = s.scratchValidMask.length
  mirrorLength : t.scratchMirror.length = s.scratchMirror.length
  cache : (s.lastAddress = none → s.lastOp = .none) → t.lastAddress = none → t.lastOp = .none
  log : ∃ rs, t.log = s.log ++ rs
  trace : ∃ evs, t.portTrace = s.portTrace ++ evs ∧
    (∀ w o, PortEvent.shift w o ∈ evs → w = busWidth s ∧ s.addressBits ≠ 0#8) ∧ CacheTracks s t evs

namespace EngineFrame

/-- The clause on the record, for a change that touches neither the ports nor the cache. -/
theorem noTrace {s t : State} (h : t.portTrace = s.portTrace) (ha : t.lastAddress = s.lastAddress)
    (ho : t.lastOp = s.lastOp) : ∃ evs, t.portTrace = s.portTrace ++ evs ∧
      (∀ w o, PortEvent.shift w o ∈ evs → w = busWidth s ∧ s.addressBits ≠ 0#8) ∧ CacheTracks s t evs :=
  ⟨[], by simp [h], by simp, ha, ho⟩

theorem refl (s : State) : EngineFrame s s :=
  ⟨rfl, rfl, rfl, rfl, rfl, rfl, rfl, rfl, rfl, rfl, fun _ h => h, rfl, rfl, fun h => h, ⟨[], by simp⟩, noTrace rfl rfl rfl⟩

theorem trans {s t u : State} (h : EngineFrame s t) (g : EngineFrame t u) : EngineFrame s u where
  params := g.params.trans h.params
  attached := g.attached.trans h.attached
  addressBits := g.addressBits.trans h.addressBits
  scratchSize := g.scratchSize.trans h.scratchSize
  examined := g.examined.trans h.examined
  irSelect := g.irSelect.trans h.irSelect
  lifecycle := g.lifecycle.trans h.lifecycle
  commands := g.commands.trans h.commands
  result := g.result.trans h.result
  corePc := g.corePc.trans h.corePc
  fault := fun k hk => g.fault k (h.fault k hk)
  maskLength := g.maskLength.trans h.maskLength
  mirrorLength := g.mirrorLength.trans h.mirrorLength
  cache := fun hc => g.cache (h.cache hc)
  log := by
    obtain ⟨a, ha⟩ := h.log
    obtain ⟨b, hb⟩ := g.log
    exact ⟨a ++ b, by rw [hb, ha, List.append_assoc]⟩
  trace := by
    obtain ⟨a, ha, ha'⟩ := h.trace
    obtain ⟨b, hb, hb'⟩ := g.trace
    refine ⟨a ++ b, by rw [hb, ha, List.append_assoc], fun w o hm => ?_, ha'.2.trans hb'.2⟩
    rcases List.mem_append.1 hm with hm | hm
    · exact ha'.1 w o hm
    · have := hb'.1 w o hm
      simpa [busWidth, h.addressBits] using this

/-! ### The single updates -/

theorem setRetry (s : State) (r : Option RetryLoop) : EngineFrame s (s.setRetry r) :=
  ⟨rfl, rfl, rfl, rfl, rfl, rfl, rfl, rfl, rfl, rfl, fun _ h => h, rfl, rfl, fun h => h, ⟨[], by simp⟩, noTrace rfl rfl rfl⟩

theorem recordFault (s : State) (k : FatalKind) : EngineFrame s (s.recordFault k) :=
  ⟨rfl, rfl, rfl, rfl, rfl, rfl, rfl, rfl, rfl, rfl, fun _ h => by simp [h], rfl, rfl, fun h => h, ⟨[], by simp⟩,
    noTrace rfl rfl rfl⟩

theorem appendLog (s : State) (r : LogRecord) : EngineFrame s (s.appendLog r) :=
  ⟨rfl, rfl, rfl, rfl, rfl, rfl, rfl, rfl, rfl, rfl, fun _ h => h, rfl, rfl, fun h => h, ⟨[r], by simp⟩, noTrace rfl rfl rfl⟩

theorem writeMirror (s : State) (i : Nat) (v : Word) (b : Bool) : EngineFrame s (s.writeMirror i v b) :=
  ⟨rfl, rfl, rfl, rfl, rfl, rfl, rfl, rfl, rfl, rfl, fun _ h => h, by simp; split <;> simp, by simp; split <;> simp,
    fun h => h, ⟨[], by simp⟩, noTrace rfl rfl rfl⟩

theorem clearValid (s : State) (i : Nat) : EngineFrame s (s.clearValid i) :=
  ⟨rfl, rfl, rfl, rfl, rfl, rfl, rfl, rfl, rfl, rfl, fun _ h => h, by simp; split <;> simp, rfl,
    fun h => h, ⟨[], by simp⟩, noTrace rfl rfl rfl⟩

theorem enterHook (s : State) (n : HookName) : EngineFrame s (s.enterHook n) :=
  ⟨rfl, rfl, rfl, rfl, rfl, rfl, rfl, rfl, rfl, rfl, fun _ h => h, rfl, rfl, fun h => h, ⟨[], by simp⟩,
    ⟨[.hook n], rfl, by simp, rfl, rfl⟩⟩

theorem scanned {s : State} {op : WireOp} {a : DbusAddr} {d : DbusData} (h : s.addressBits ≠ 0#8) :
    EngineFrame s (s.scanned op a d) :=
  ⟨rfl, rfl, rfl, rfl, rfl, rfl, rfl, rfl, rfl, rfl, fun _ h => h, rfl, rfl, fun _ h => by simp at h, ⟨[], by simp⟩,
    ⟨exchange s op a d s.nextAnswer, by simp, fun w o hm => by
      simp [exchange] at hm; exact ⟨hm.1, h⟩, by simp [CacheTracks, lastRequest_exchange]⟩⟩

end EngineFrame

/-- A procedure that keeps the frame, from every state. -/
def Framed {α : Type} (p : Proc α) : Prop := ∀ s, EngineFrame s (p s).2

namespace Framed

variable {α β : Type}

theorem done (a : α) : Framed (Machine.done a) := EngineFrame.refl

theorem raise (k : FatalKind) : Framed (raiseFatal k : Proc α) := fun s => EngineFrame.recordFault s k

theorem refuse (k : RefusalKind) : Framed (Machine.refuse k : Proc α) := EngineFrame.refl

theorem andThen {p : Proc α} {f : α → Proc β} (hp : Framed p) (hf : ∀ a, Framed (f a)) : Framed (Machine.andThen p f) := by
  intro s
  rcases andThen_cases p f s with ⟨a, _, h⟩ | h
  · rw [h]; exact (hp s).trans (hf a _)
  · rw [h]; exact hp s

theorem requireSession : Framed Machine.requireSession := fun s => by
  rw [requireSession_state]; exact EngineFrame.refl s

theorem requireIndex (i : Word) : Framed (Machine.requireIndex i) := fun s => by
  rw [requireIndex_state]; exact EngineFrame.refl s

theorem scan (op : WireOp) (a : DbusAddr) (d : DbusData) : Framed (scanProc op a d) := by
  intro s
  rcases scanProc_cases s op a d with ⟨k, h⟩ | ⟨_, _, h⟩ | ⟨hr, _, h⟩ | ⟨hr, _, _, _, h⟩
  · rw [h]; exact EngineFrame.refl s
  · rw [h]; exact EngineFrame.recordFault s _
  · rw [h]; exact (EngineFrame.scanned hr.2.1).trans (EngineFrame.recordFault _ _)
  · rw [h]; exact EngineFrame.scanned hr.2.1

theorem respond : ∀ (n : Nat) (c : ResultCode) (d : DbusData), Framed (Machine.respond n c d)
  | n, .success, d => fun s => by
    rcases h : s.retry with _ | l
    · rw [respond_bare h]; exact EngineFrame.refl s
    · rw [respond_success h]; exact EngineFrame.setRetry s _
  | n, .noWrite, d => fun s => by
    rcases h : s.retry with _ | l
    · rw [respond_bare h]; exact EngineFrame.refl s
    · rw [respond_noWrite h]; exact (EngineFrame.appendLog s _).trans (EngineFrame.setRetry _ _)
  | n, .failed, d => fun s => by
    rcases h : s.retry with _ | l
    · rw [respond_bare h]; exact EngineFrame.refl s
    · rw [respond_failed h]; exact (EngineFrame.appendLog s _).trans (EngineFrame.setRetry _ _)
  | 0, .busy, d => fun s => by
    rcases h : s.retry with _ | l
    · rw [respond_bare h]; exact EngineFrame.refl s
    · rw [respond_ceiling h]; exact (EngineFrame.setRetry s _).trans (EngineFrame.recordFault _ _)
  | n + 1, .busy, d => fun s => by
    rcases h : s.retry with _ | l
    · rw [respond_bare h]; exact EngineFrame.refl s
    by_cases ht : timedOut s = true
    · rw [respond_timeout h ht]; exact (EngineFrame.setRetry s _).trans (EngineFrame.recordFault _ _)
    rw [respond_again h (by simpa using ht)]
    have hs := (EngineFrame.setRetry s (some { l with retries := l.retries + 1 })).trans
      (scan l.op l.address l.dataOut (s.setRetry (some { l with retries := l.retries + 1 })))
    split
    · next c d' s1 e => rw [e] at hs; exact hs.trans (respond n c d' s1)
    · next k s1 e => rw [e] at hs; exact hs.trans (EngineFrame.setRetry s1 _)
    · next k s1 e => rw [e] at hs; exact hs.trans (EngineFrame.setRetry s1 _)

theorem receive (c : ResultCode) (d : DbusData) : Framed (Machine.receive c d) := fun s => respond (retriesLeft s) c d s

theorem scanRetry (op : WireOp) (a : DbusAddr) (d : DbusData) : Framed (Machine.scanRetry op a d) := by
  intro s
  have hs := (EngineFrame.setRetry s (some ⟨op, a, d, 0⟩)).trans (scan op a d _)
  rcases e : scanProc op a d (s.setRetry (some ⟨op, a, d, 0⟩)) with ⟨⟨c, d'⟩ | k | k, s1⟩ <;> rw [e] at hs
  · rw [scanRetry_ok e]; exact hs.trans (receive c d' s1)
  · rw [scanRetry_err e]; exact hs.trans (EngineFrame.setRetry s1 _)
  · rw [scanRetry_refused e]; exact hs.trans (EngineFrame.setRetry s1 _)

theorem addressPhase (a : DbusAddr) : Framed (Machine.addressPhase a) := by
  intro s
  unfold Machine.addressPhase
  split
  · exact EngineFrame.refl s
  · exact andThen (scanRetry _ _ _) (fun _ => done ()) s

theorem read (a : DbusAddr) : Framed (readProc a) :=
  andThen (addressPhase a) fun _ => andThen (scanRetry _ _ _) fun _ => done _

theorem write (a : DbusAddr) (v : DbusData) : Framed (writeProc a v) :=
  andThen (scanRetry _ _ _) fun _ => done _

theorem readWord (i : Word) : Framed (readWordProc i) :=
  andThen requireSession fun _ => andThen (requireIndex i) fun _ => andThen (read _) fun _ => done _

theorem writeWord (i v : Word) (f : Bool) : Framed (writeWordProc i v f) :=
  andThen requireSession fun _ => andThen (requireIndex i) fun _ => andThen (write _ _) fun _ =>
    fun s => EngineFrame.writeMirror s _ _ _

theorem verifyWord (i e : Word) : Framed (verifyWordProc i e) := by
  refine andThen (readWord i) fun got => ?_
  intro s
  split
  · exact EngineFrame.refl s
  · exact andThen (fun s => (EngineFrame.appendLog s _).trans (EngineFrame.clearValid _ _)) (fun _ => done false) s

theorem requireJump (off : Int) : Framed (Machine.requireJump off) := fun s => by
  unfold Machine.requireJump; split <;> exact EngineFrame.refl s

theorem writeResumeJump (i : Word) (f : Bool) : Framed (writeResumeJumpProc i f) :=
  andThen requireSession fun _ => andThen (requireIndex i) fun _ =>
    fun s => andThen (requireJump _) (fun _ => writeWord _ _ _) s

theorem hookCommand : ∀ c : HookCmd, Framed (Machine.hookCommand c)
  | .scan op a d => andThen (scan op a d) fun _ => done ()
  | .read a => andThen (read a) fun _ => done ()
  | .write a v => andThen (write a v) fun _ => done ()
  | .readWord i => andThen (readWord i) fun _ => done ()
  | .writeWord i v f => writeWord i v f
  | .verifyWord i e => andThen (verifyWord i e) fun _ => done ()
  | .writeResumeJump i f => writeResumeJump i f

theorem runHook : ∀ l : List HookStep, Framed (Machine.runHook l)
  | [] => done ()
  | x :: rest => fun s => by
    have hs := hookCommand x.cmd s
    rcases e : Machine.hookCommand x.cmd s with ⟨_ | k | k, s1⟩ <;> rw [e] at hs
    · rw [runHook_ok e]; exact hs.trans (runHook rest s1)
    · rw [runHook_err e]; exact hs
    · rw [runHook_refused e]; split
      · exact hs
      · exact hs.trans (runHook rest s1)

theorem callHook (h : HookName) : Framed (Machine.callHook h) := fun s => by
  unfold Machine.callHook; split
  · exact (EngineFrame.enterHook s h).trans (runHook _ _)
  · exact EngineFrame.refl s

theorem stageWords : ∀ l : List (Word × Word), Framed (Machine.stageWords l)
  | [] => done ()
  | (k, w) :: rest => andThen (writeWord k w false) fun _ => andThen (verifyWord k w) fun _ => stageWords rest

theorem halt : Framed haltProc :=
  andThen requireSession fun _ =>
    andThen (fun s => by unfold requireTwoSlots; split <;> exact EngineFrame.refl s) fun _ =>
      andThen (callHook _) fun _ => andThen (fun s => writeWord _ _ _ s) fun _ => writeResumeJump _ _

end Framed

/-! ### The retry loop is closed between commands (R35) -/

/-- A procedure that leaves no loop open where none was open. -/
def ClosesLoop {α : Type} (p : Proc α) : Prop := ∀ s, s.retry = none → (p s).2.retry = none

/-- A scan leaves the loop it belongs to as it is. -/
theorem scanProc_retry (op : WireOp) (a : DbusAddr) (d : DbusData) (s : State) :
    (scanProc op a d s).2.retry = s.retry := by
  rcases scanProc_cases s op a d with ⟨k, h⟩ | ⟨_, _, h⟩ | ⟨_, _, h⟩ | ⟨_, _, _, _, h⟩ <;> rw [h] <;> simp

/-- A response, whatever it is, ends with no loop open. -/
theorem respond_retry : ∀ (n : Nat) (c : ResultCode) (d : DbusData) (s : State), (respond n c d s).2.retry = none
  | n, .success, d, s => by
    rcases h : s.retry with _ | l
    · rw [respond_bare h]; exact h
    · rw [respond_success h]; rfl
  | n, .noWrite, d, s => by
    rcases h : s.retry with _ | l
    · rw [respond_bare h]; exact h
    · rw [respond_noWrite h]; rfl
  | n, .failed, d, s => by
    rcases h : s.retry with _ | l
    · rw [respond_bare h]; exact h
    · rw [respond_failed h]; rfl
  | 0, .busy, d, s => by
    rcases h : s.retry with _ | l
    · rw [respond_bare h]; exact h
    · rw [respond_ceiling h]; rfl
  | n + 1, .busy, d, s => by
    rcases h : s.retry with _ | l
    · rw [respond_bare h]; exact h
    by_cases ht : timedOut s = true
    · rw [respond_timeout h ht]; rfl
    rw [respond_again h (by simpa using ht)]
    split
    · next c d' s1 e => exact respond_retry n c d' s1
    · rfl
    · rfl

theorem scanRetry_retry (op : WireOp) (a : DbusAddr) (d : DbusData) (s : State) :
    (scanRetry op a d s).2.retry = none := by
  rcases e : scanProc op a d (s.setRetry (some ⟨op, a, d, 0⟩)) with ⟨⟨c, d'⟩ | k | k, s1⟩
  · rw [scanRetry_ok e]; exact respond_retry _ c d' s1
  · rw [scanRetry_err e]; rfl
  · rw [scanRetry_refused e]; rfl

namespace ClosesLoop

variable {α β : Type}

theorem done (a : α) : ClosesLoop (Machine.done a) := fun _ h => h

theorem andThen {p : Proc α} {f : α → Proc β} (hp : ClosesLoop p) (hf : ∀ a, ClosesLoop (f a)) :
    ClosesLoop (Machine.andThen p f) := by
  intro s hs
  rcases andThen_cases p f s with ⟨a, _, h⟩ | h
  · rw [h]; exact hf a _ (hp s hs)
  · rw [h]; exact hp s hs

theorem requireSession : ClosesLoop Machine.requireSession := fun s h => by rw [requireSession_state]; exact h

theorem requireIndex (i : Word) : ClosesLoop (Machine.requireIndex i) := fun s h => by rw [requireIndex_state]; exact h

theorem scan (op : WireOp) (a : DbusAddr) (d : DbusData) : ClosesLoop (scanProc op a d) := fun s h => by
  rw [scanProc_retry]; exact h

theorem scanRetry (op : WireOp) (a : DbusAddr) (d : DbusData) : ClosesLoop (Machine.scanRetry op a d) :=
  fun s _ => scanRetry_retry op a d s

theorem addressPhase (a : DbusAddr) : ClosesLoop (Machine.addressPhase a) := by
  intro s h
  unfold Machine.addressPhase
  split
  · exact h
  · exact andThen (scanRetry _ _ _) (fun _ => done ()) s h

theorem read (a : DbusAddr) : ClosesLoop (readProc a) :=
  andThen (addressPhase a) fun _ => andThen (scanRetry _ _ _) fun _ => done _

theorem write (a : DbusAddr) (v : DbusData) : ClosesLoop (writeProc a v) :=
  andThen (scanRetry _ _ _) fun _ => done _

theorem readWord (i : Word) : ClosesLoop (readWordProc i) :=
  andThen requireSession fun _ => andThen (requireIndex i) fun _ => andThen (read _) fun _ => done _

theorem writeWord (i v : Word) (f : Bool) : ClosesLoop (writeWordProc i v f) :=
  andThen requireSession fun _ => andThen (requireIndex i) fun _ => andThen (write _ _) fun _ => fun _ h => h

theorem verifyWord (i e : Word) : ClosesLoop (verifyWordProc i e) := by
  refine andThen (readWord i) fun got => ?_
  intro s h
  split
  · exact h
  · exact andThen (fun _ h => h) (fun _ => done false) s h

theorem requireJump (off : Int) : ClosesLoop (Machine.requireJump off) := fun s h => by
  unfold Machine.requireJump; split <;> exact h

theorem writeResumeJump (i : Word) (f : Bool) : ClosesLoop (writeResumeJumpProc i f) :=
  andThen requireSession fun _ => andThen (requireIndex i) fun _ =>
    fun s h => andThen (requireJump _) (fun _ => writeWord _ _ _) s h

theorem hookCommand : ∀ c : HookCmd, ClosesLoop (Machine.hookCommand c)
  | .scan op a d => andThen (scan op a d) fun _ => done ()
  | .read a => andThen (read a) fun _ => done ()
  | .write a v => andThen (write a v) fun _ => done ()
  | .readWord i => andThen (readWord i) fun _ => done ()
  | .writeWord i v f => writeWord i v f
  | .verifyWord i e => andThen (verifyWord i e) fun _ => done ()
  | .writeResumeJump i f => writeResumeJump i f

theorem runHook : ∀ l : List HookStep, ClosesLoop (Machine.runHook l)
  | [] => done ()
  | x :: rest => fun s h => by
    have hs := hookCommand x.cmd s h
    rcases e : Machine.hookCommand x.cmd s with ⟨_ | k | k, s1⟩ <;> rw [e] at hs
    · rw [runHook_ok e]; exact runHook rest s1 hs
    · rw [runHook_err e]; exact hs
    · rw [runHook_refused e]; split
      · exact hs
      · exact runHook rest s1 hs

theorem callHook (n : HookName) : ClosesLoop (Machine.callHook n) := fun s h => by
  unfold Machine.callHook; split
  · exact runHook _ _ h
  · exact h

theorem stageWords : ∀ l : List (Word × Word), ClosesLoop (Machine.stageWords l)
  | [] => done ()
  | (k, w) :: rest => andThen (writeWord k w false) fun _ => andThen (verifyWord k w) fun _ => stageWords rest

theorem halt : ClosesLoop haltProc :=
  andThen requireSession fun _ =>
    andThen (fun s h => by unfold requireTwoSlots; split <;> exact h) fun _ =>
      andThen (callHook _) fun _ => andThen (fun s h => writeWord _ _ _ s h) fun _ => writeResumeJump _ _

end ClosesLoop

end Sys2Proof.Machine
end

