-- ==== Sys2Proof/Laws/Examine.lean ====
section
/-! SUPPORT. Sys2Proof/Laws/Examine.lean: everything `read_dtm_info` and `examine` can do (spec/40 R122, 44 R193), on any answers: what
they leave alone and how far what they write is bounded. -/

namespace Sys2Proof.Machine

/-- The state after the scan of `read_dtm_info`, whatever it was answered, with the selector it leaves (R122, R124). -/
def State.dtmScanned (s : State) (r : IrSelect) : State :=
  { s with
    irSelect := r
    scanQueue := []
    portTrace := s.portTrace ++ [.select .dtminfo, .shift 32 0, .select .dbus, .flush s.nextAnswer]
    answers := s.answers.tail
    timeoutExpired := s.nextAnswer.late
    draws := if s.answers.isEmpty then s.draws + 1 else s.draws }

theorem dtmScanned_eq (s : State) (r : IrSelect) :
    ((((s.portSelect .dtminfo).portShift 32 0).portSelect .dbus).flushed).setIrSelect r = s.dtmScanned r := by
  simp [State.dtmScanned, State.setIrSelect, State.flushed, State.portSelect, State.portShift, State.nextAnswer]

/-- Everything `read_dtm_info` can do (R122). -/
theorem readDtmInfoProc_cases (s : State) :
    (∃ k, readDtmInfoProc s = (.refused k, s)) ∨
    (SessionOpen s ∧
      (readDtmInfoProc s = (.err .transportError, (s.dtmScanned .unknown).recordFault .transportError) ∨
       (∃ n, readDtmInfoProc s = (.refused (.geometryRange n), s.dtmScanned .dbus)) ∨
       ∃ w : BitVec 8, w.toNat ≤ 16 ∧ readDtmInfoProc s = (.ok w, (s.dtmScanned .dbus).setAddressBits w))) := by
  by_cases ha : s.attached = false
  · exact .inl ⟨_, andThen_refused (requireSession_detached ha)⟩
  rcases hf : s.fault with _ | k
  · have ho : SessionOpen s := ⟨by simpa using ha, hf⟩
    refine .inr ⟨⟨ho.1, hf⟩, ?_⟩
    rw [readDtmInfoProc, andThen_ok (requireSession_open ho)]
    rcases hn : (((s.portSelect .dtminfo).portShift 32 0).portSelect .dbus).nextAnswer with _ | ⟨v, late⟩
    · exact .inl (by simp only [hn, dtmScanned_eq, raiseFatal_apply])
    · refine .inr ?_
      simp only [hn, storeAddressBits, dtmScanned_eq]
      split
      · exact .inl ⟨_, rfl⟩
      · exact .inr ⟨_, by rw [BitVec.toNat_ofNat]; omega, rfl⟩
  · exact .inl ⟨_, andThen_refused (requireSession_failed (by simpa using ha) hf)⟩

/-- What `examine` keeps and bounds: the attachment, the lifecycle state, the command port and the target core untouched; the
geometry, the selector and the Debug RAM size as legal as they were; `examined` only over six slots. -/
structure ExamineFrame (s t : State) : Prop where
  params : t.params = s.params
  attached : t.attached = s.attached
  lifecycle : t.lifecycle = s.lifecycle
  commands : t.commands = s.commands
  corePc : t.corePc = s.corePc
  fault : ∀ k, s.fault = some k → t.fault = some k
  maskLength : t.scratchValidMask.length = s.scratchValidMask.length
  mirrorLength : t.scratchMirror.length = s.scratchMirror.length
  cache : (s.lastAddress = none → s.lastOp = .none) → t.lastAddress = none → t.lastOp = .none
  geometry : s.addressBits.toNat ≤ 16 → t.addressBits.toNat ≤ 16
  selector : (s.addressBits ≠ 0#8 → s.fault = none → s.irSelect = .dbus) →
    t.addressBits ≠ 0#8 → t.fault = none → t.irSelect = .dbus
  size : t.scratchSize = s.scratchSize ∨ (t.scratchSize.toNat ≤ 64 ∧ t.scratchSize.toNat ≤ s.params.mirrorCapacity)
  slots : t.examined = true → (s.examined = true ∧ t.scratchSize = s.scratchSize) ∨ 6 ≤ t.scratchSize.toNat
  log : ∃ rs, t.log = s.log ++ rs
  trace : ∃ evs, t.portTrace = s.portTrace ++ evs ∧
    (∀ n o, PortEvent.shift n o ∈ evs → n = 32 ∨ (n = busWidth t ∧ t.addressBits ≠ 0#8)) ∧ CacheTracks s t evs

namespace ExamineFrame

variable {s t u : State}

theorem ofEngine (h : EngineFrame s t) : ExamineFrame s t where
  params := h.params
  attached := h.attached
  lifecycle := h.lifecycle
  commands := h.commands
  corePc := h.corePc
  fault := h.fault
  maskLength := h.maskLength
  mirrorLength := h.mirrorLength
  cache := h.cache
  geometry := fun g => by rw [h.addressBits]; exact g
  selector := fun g hz hf => by
    rw [h.irSelect]
    refine g (by rwa [h.addressBits] at hz) ?_
    rcases hk : s.fault with _ | k
    · rfl
    · rw [h.fault k hk] at hf; cases hf
  size := .inl h.scratchSize
  slots := fun he => .inl ⟨by rwa [h.examined] at he, h.scratchSize⟩
  log := h.log
  trace := by
    obtain ⟨evs, e, hw, hc⟩ := h.trace
    exact ⟨evs, e, fun n o hm => .inr (by simpa [busWidth, h.addressBits] using hw n o hm), hc⟩

/-- More of the engine after it. -/
theorem engine (h : ExamineFrame s t) (g : EngineFrame t u) : ExamineFrame s u where
  params := g.params.trans h.params
  attached := g.attached.trans h.attached
  lifecycle := g.lifecycle.trans h.lifecycle
  commands := g.commands.trans h.commands
  corePc := g.corePc.trans h.corePc
  fault := fun k hk => g.fault k (h.fault k hk)
  maskLength := g.maskLength.trans h.maskLength
  mirrorLength := g.mirrorLength.trans h.mirrorLength
  cache := fun hc => g.cache (h.cache hc)
  geometry := fun hg => by rw [g.addressBits]; exact h.geometry hg
  selector := fun hs hz hf => (ofEngine g).selector (h.selector hs) hz hf
  size := by rw [g.scratchSize]; exact h.size
  slots := fun he => by rw [g.scratchSize]; exact h.slots (by rwa [g.examined] at he)
  log := by
    obtain ⟨a, ha⟩ := h.log
    obtain ⟨b, hb⟩ := g.log
    exact ⟨a ++ b, by rw [hb, ha, List.append_assoc]⟩
  trace := by
    obtain ⟨a, ha, haw, hac⟩ := h.trace
    obtain ⟨b, hb, hbw, hbc⟩ := (ofEngine g).trace
    refine ⟨a ++ b, by rw [hb, ha, List.append_assoc], fun n o hm => ?_, hac.trans hbc⟩
    rcases List.mem_append.1 hm with hm | hm
    · simpa [busWidth, g.addressBits] using haw n o hm
    · exact hbw n o hm

/-- The scan of `read_dtm_info`; the selector is the debug bus's again, or the session is about to fail. -/
theorem dtmScanned (s : State) (r : IrSelect) (hr : r = .dbus ∨ s.addressBits = 0#8) : ExamineFrame s (s.dtmScanned r) where
  params := rfl
  attached := rfl
  lifecycle := rfl
  commands := rfl
  corePc := rfl
  fault := fun _ h => h
  maskLength := rfl
  mirrorLength := rfl
  cache := fun h => h
  geometry := fun h => h
  selector := fun _ hz _ => by
    rcases hr with rfl | hr
    · rfl
    · exact absurd hr hz
  size := .inl rfl
  slots := fun h => .inl ⟨h, rfl⟩
  log := ⟨[], (List.append_nil _).symm⟩
  trace := ⟨_, rfl, fun n o hm => .inl (by simp at hm; exact hm.1), by simp [CacheTracks, lastRequest, State.dtmScanned]⟩

/-- The scan of `read_dtm_info` whose flush failed (R222). -/
theorem dtmFailed (s : State) : ExamineFrame s ((s.dtmScanned .unknown).recordFault .transportError) where
  params := rfl
  attached := rfl
  lifecycle := rfl
  commands := rfl
  corePc := rfl
  fault := fun k h => by
    have : (s.dtmScanned .unknown).fault = some k := h
    simp [State.recordFault, this]
  maskLength := rfl
  mirrorLength := rfl
  cache := fun h => h
  geometry := fun h => h
  selector := fun _ _ hf => by
    exfalso
    revert hf
    simp only [State.recordFault]
    split <;> simp
  size := .inl rfl
  slots := fun h => .inl ⟨h, rfl⟩
  log := ⟨[], (List.append_nil _).symm⟩
  trace := ⟨_, rfl, fun n o hm => .inl (by simp at hm; exact hm.1), by
    simp [CacheTracks, lastRequest, State.dtmScanned, State.recordFault]⟩

/-- The decoded width stored. -/
theorem dtmStored (s : State) {w : BitVec 8} (hw : w.toNat ≤ 16) :
    ExamineFrame s ((s.dtmScanned .dbus).setAddressBits w) where
  params := rfl
  attached := rfl
  lifecycle := rfl
  commands := rfl
  corePc := rfl
  fault := fun _ h => h
  maskLength := rfl
  mirrorLength := rfl
  cache := fun h => h
  geometry := fun _ => hw
  selector := fun _ _ _ => rfl
  size := .inl rfl
  slots := fun h => .inl ⟨h, rfl⟩
  log := ⟨[], (List.append_nil _).symm⟩
  trace := ⟨_, rfl, fun n o hm => .inl (by simp at hm; exact hm.1), by
    simp [CacheTracks, lastRequest, State.dtmScanned, State.setAddressBits]⟩

/-- The Debug RAM size stored, in a session not examined. -/
theorem setScratchSize (h : ExamineFrame s t) {n : Word} (h1 : n.toNat ≤ 64) (h2 : n.toNat ≤ s.params.mirrorCapacity)
    (he : t.examined = false) : ExamineFrame s (t.setScratchSize n) :=
  { h with
    size := .inr ⟨h1, h2⟩
    slots := fun h' => by rw [show (t.setScratchSize n).examined = t.examined from rfl, he] at h'; cases h' }

/-- `examined` set over a Debug RAM of six slots at least. -/
theorem setExamined (h : ExamineFrame s t) (h6 : 6 ≤ t.scratchSize.toNat) : ExamineFrame s t.setExamined :=
  { h with slots := fun _ => .inr h6 }

theorem readDtmInfo (s : State) : ExamineFrame s (readDtmInfoProc s).2 := by
  rcases readDtmInfoProc_cases s with ⟨k, e⟩ | ⟨ho, e | ⟨n, e⟩ | ⟨w, hw, e⟩⟩ <;> rw [e]
  · exact ofEngine (EngineFrame.refl s)
  · exact dtmFailed s
  · exact dtmScanned s .dbus (.inl rfl)
  · exact dtmStored s hw

end ExamineFrame

/-- `read_dtm_info` leaves `examined` and the loop as they are. -/
theorem readDtmInfoProc_examined (s : State) :
    (readDtmInfoProc s).2.examined = s.examined ∧ (readDtmInfoProc s).2.scratchSize = s.scratchSize ∧
      (readDtmInfoProc s).2.retry = s.retry := by
  rcases readDtmInfoProc_cases s with ⟨k, e⟩ | ⟨ho, e | ⟨n, e⟩ | ⟨w, hw, e⟩⟩ <;> rw [e] <;> exact ⟨rfl, rfl, rfl⟩

/-- The size field gives 1 to 64 words, so the zero check never fires (R100, R225). -/
theorem infoScratchSize_bounds (p : Params) (info : BitVec 64) :
    1 ≤ (infoScratchSize p info).toNat ∧ (infoScratchSize p info).toNat ≤ 64 := by
  have := (info.extractLsb' p.infoSizeLsb 6).isLt
  simp only [infoScratchSize, BitVec.toNat_add, BitVec.truncate_eq_setWidth, BitVec.toNat_setWidth, BitVec.toNat_ofNat]
  omega

/-- Everything the checks on the info register can do (R193, R234). -/
theorem acceptInfo_cases (info : BitVec 64) (s : State) :
    (∃ k, acceptInfo info s = (.err k, s.recordFault k)) ∨
    (infoAuthType s.params info = 0#2 ∧ (infoScratchSize s.params info).toNat ≤ s.params.mirrorCapacity ∧
      acceptInfo info s = (.ok (), s.setScratchSize (infoScratchSize s.params info))) := by
  unfold acceptInfo
  split
  · exact .inl ⟨_, rfl⟩
  · next h1 =>
    split
    · exact .inl ⟨_, rfl⟩
    · split
      · exact .inl ⟨_, rfl⟩
      · exact .inr ⟨by simpa using h1, by omega, rfl⟩

/-- A command on a Debug RAM slot that ends normally had that slot (R171). -/
theorem writeResumeJumpProc_index {index : Word} {f : Bool} {s : State} {a : Unit}
    (h : (writeResumeJumpProc index f s).1 = .ok a) : index < s.scratchSize := by
  by_contra hc
  have hc' : s.scratchSize ≤ index := by
    rw [BitVec.le_def]; rw [BitVec.lt_def] at hc; omega
  unfold writeResumeJumpProc at h
  rcases andThen_cases requireSession (fun _ => andThen (requireIndex index) fun _ s =>
      andThen (requireJump (jumpOffset s.params index)) (fun _ =>
        writeWordProc index (resumeJumpWord s.params index) f) s) s with ⟨_, hs, e⟩ | e
  · rw [e, requireSession_state, andThen_refused (requireIndex_illegal hc')] at h
    cases h
  · rcases hr : requireSession s with ⟨_ | _ | _, s1⟩
    · rw [andThen_ok hr] at h
      have := requireSession_state s
      rw [hr] at this
      subst this
      rw [andThen_refused (requireIndex_illegal hc')] at h
      cases h
    · rw [andThen_err hr] at h; cases h
    · rw [andThen_refused hr] at h; cases h

/-- Everything `examine` can do, from every state and on every answer. -/
theorem examineProc_frame (s : State) : ExamineFrame s (examineProc s).2 := by
  have hrefl := ExamineFrame.ofEngine (EngineFrame.refl s)
  unfold examineProc
  rcases andThen_cases requireSession (fun _ s => if s.examined then done () s else examineBody s) s with ⟨_, _, e⟩ | e
  swap
  · rw [e, requireSession_state]; exact hrefl
  rw [e, requireSession_state]
  split
  · exact hrefl
  next hex =>
  unfold examineBody
  have h1 := ExamineFrame.readDtmInfo s
  have hx1 : (readDtmInfoProc s).2.examined = false := by
    rw [(readDtmInfoProc_examined s).1]; simpa using hex
  rcases andThen_cases readDtmInfoProc _ s with ⟨_, _, e⟩ | e
  swap
  · rw [e]; exact h1
  rw [e]
  generalize (readDtmInfoProc s).2 = s1 at h1 hx1 ⊢
  have hr := Framed.read s1.params.infoAddr s1
  have h2 := h1.engine hr
  have hx2 : (readProc s1.params.infoAddr s1).2.examined = false := hr.examined.trans hx1
  rcases andThen_cases (fun s => readProc s.params.infoAddr s) _ s1 with ⟨info, _, e⟩ | e
  swap
  · rw [e]; exact h2
  rw [e]
  generalize (readProc s1.params.infoAddr s1).2 = s2 at h2 hx2 ⊢
  rcases acceptInfo_cases info s2 with ⟨k, ea⟩ | ⟨_, hcap, ea⟩
  · rw [andThen_err ea]; exact h2.engine (EngineFrame.recordFault s2 k)
  rw [andThen_ok ea]
  have h3 := h2.setScratchSize (n := infoScratchSize s2.params info) (infoScratchSize_bounds _ _).2
    (by rw [← h2.params]; exact hcap) hx2
  generalize s2.setScratchSize (infoScratchSize s2.params info) = s3 at h3 ⊢
  have hs4 := Framed.stageWords (probeWords s3.params.probe) s3
  have h4 := h3.engine hs4
  rcases andThen_cases (fun s => stageWords (probeWords s.params.probe) s) _ s3 with ⟨_, _, e⟩ | e
  swap
  · rw [e]; exact h4
  rw [e]
  generalize (stageWords (probeWords s3.params.probe) s3).2 = s4 at h4 ⊢
  have hs5 := Framed.writeResumeJump 5#32 false s4
  have h5 := h4.engine hs5
  rcases andThen_cases (writeResumeJumpProc 5#32 false) _ s4 with ⟨_, ok, e⟩ | e
  swap
  · rw [e]; exact h5
  have h6 : 6 ≤ (writeResumeJumpProc 5#32 false s4).2.scratchSize.toNat := by
    rw [hs5.scratchSize]
    have := writeResumeJumpProc_index ok
    rw [BitVec.lt_def] at this
    exact this
  rw [e]
  generalize (writeResumeJumpProc 5#32 false s4).2 = s5 at h5 h6 ⊢
  have hs6 := Framed.verifyWord 5#32 (resumeJumpWord s5.params 5#32) s5
  have h7 := h5.engine hs6
  rcases andThen_cases (fun s => verifyWordProc 5#32 (resumeJumpWord s.params 5#32) s) _ s5 with ⟨_, _, e⟩ | e
  · rw [e]
    exact h7.setExamined (by rw [hs6.scratchSize]; exact h6)
  · rw [e]; exact h7

end Sys2Proof.Machine
end

