-- ==== Sys2Proof/Laws/Staging.lean ====
section
/-! SUPPORT. Sys2Proof/Laws/Staging.lean: the parts of `examine` (spec/44_lifecycle.md R193) in closed form, for any terminal answers: its
start up to the info register, and words staged and verified. -/

namespace Sys2Proof.Machine

theorem shiftsOf_append (a b : List PortEvent) : shiftsOf (a ++ b) = shiftsOf a ++ shiftsOf b := by
  induction a with
  | nil => rfl
  | cons x a ih => cases x <;> simp [shiftsOf, ih]

@[simp] theorem shiftsOf_exchanges_one (s : State) (op : WireOp) (a : DbusAddr) (d : DbusData) (x : Answer) :
    shiftsOf (exchanges s op a d [x]) = [(busWidth s, assemble op a d)] := by
  simp [exchanges, exchange, shiftsOf]

/-- What an answer says does not depend on the width of the bus it is scanned from: the fields stand below bit 36 (R97). -/
theorem answerCode_any (s t : State) (y : Answer) : answerCode t y = answerCode s y := by
  cases y with
  | err => rfl
  | ok v _ =>
    simp [answerCode, answerVector, responseCode_mod (n := busWidth s) (by unfold busWidth; omega),
      responseCode_mod (n := busWidth t) (by unfold busWidth; omega)]

theorem answerData_any (s t : State) (y : Answer) : answerData t y = answerData s y := by
  cases y with
  | err => rfl
  | ok v _ =>
    simp [answerData, answerVector, dataField_mod (n := busWidth s) (by unfold busWidth; omega),
      dataField_mod (n := busWidth t) (by unfold busWidth; omega)]

/-- What staged words leave in the log and the mask depends on the answers alone. -/
theorem stagedLog_any (s t : State) : ∀ (words : List (Word × Word)) (rs : List Answer), stagedLog t words rs = stagedLog s words rs
  | [], rs => by cases rs <;> rfl
  | _ :: _, [] | _ :: _, [_] | _ :: _, [_, _] => rfl
  | (_, _) :: words, _ :: _ :: _ :: rs => by
    simp only [stagedLog, answerCode_any s t, answerData_any s t, stagedLog_any s t words rs]

theorem stagedValid_any (s t : State) :
    ∀ (words : List (Word × Word)) (rs : List Answer), stagedValid t words rs = stagedValid s words rs
  | [], rs => by cases rs <;> rfl
  | _ :: _, [] | _ :: _, [_] | _ :: _, [_, _] => rfl
  | (_, _) :: words, _ :: _ :: _ :: rs => by
    simp only [stagedValid, answerCode_any s t, answerData_any s t, stagedValid_any s t words rs]

/-- What a run of staged words leaves is what its parts leave, one after the other. -/
theorem stagedLog_append (s : State) : ∀ (l l' : List (Word × Word)) (r r' : List Answer), r.length = 3 * l.length →
    stagedLog s (l ++ l') (r ++ r') = stagedLog s l r ++ stagedLog s l' r'
  | [], l', r, r', h => by
    have : r = [] := List.length_eq_zero_iff.1 (by simpa using h)
    subst this; simp [stagedLog]
  | x :: l, l', a :: b :: c :: r, r', h => by simp [stagedLog, stagedLog_append s l l' r r' (by simp at h; omega)]
  | x :: l, _, [], _, h | x :: l, _, [_], _, h | x :: l, _, [_, _], _, h => by simp at h <;> omega

theorem stagedValid_append (s : State) : ∀ (l l' : List (Word × Word)) (r r' : List Answer), r.length = 3 * l.length →
    stagedValid s (l ++ l') (r ++ r') = stagedValid s l r ++ stagedValid s l' r'
  | [], l', r, r', h => by
    have : r = [] := List.length_eq_zero_iff.1 (by simpa using h)
    subst this; simp [stagedValid]
  | x :: l, l', a :: b :: c :: r, r', h => by simp [stagedValid, stagedValid_append s l l' r r' (by simp at h; omega)]
  | x :: l, _, [], _, h | x :: l, _, [_], _, h | x :: l, _, [_, _], _, h => by simp at h <;> omega

theorem stagedValid_length (s : State) : ∀ (l : List (Word × Word)) (r : List Answer), r.length = 3 * l.length →
    (stagedValid s l r).length = l.length
  | [], r, _ => by cases r <;> rfl
  | x :: l, a :: b :: c :: r, h => by simp [stagedValid, stagedValid_length s l r (by simp at h; omega)]
  | x :: l, [], h | x :: l, [_], h | x :: l, [_, _], h => by simp at h <;> omega

/-- The valid mask once words have been staged and verified: each word's bit set or cleared at its index (R174, R176). -/
def stagedMask (s : State) (words : List (Word × Word)) (rs : List Answer) (mask : List Bool) : List Bool :=
  (words.zip (stagedValid s words rs)).foldl (fun m p => m.set p.1.1.toNat p.2) mask

theorem endCode_any (s t : State) (used : List Answer) : endCode t used = endCode s used := by
  simp [endCode, show answerCode t = answerCode s from funext (answerCode_any s t)]

theorem FinalAnswer.any {s : State} {y : Answer} (h : FinalAnswer s y) (t : State) : FinalAnswer t y := by
  unfold FinalAnswer; rw [answerCode_any s]; exact h

/-- One final answer is a whole loop's. -/
theorem LoopAnswers.one {s : State} {x : Answer} (h : FinalAnswer s x) : LoopAnswers s [x] :=
  ⟨[], x, rfl, by simp, by simp, h⟩

/-- What staging a word leaves alone, and the session it stays in. -/
structure StagedFrame (s t : State) : Prop where
  session : SessionOpen t
  params : t.params = s.params
  addressBits : t.addressBits = s.addressBits
  scratchSize : t.scratchSize = s.scratchSize
  examined : t.examined = s.examined
  lifecycle : t.lifecycle = s.lifecycle
  irSelect : t.irSelect = s.irSelect
  lastAddress : t.lastAddress = some 0#16
  lastOp : t.lastOp = .read

/-- A word staged and verified on three final answers: three scans, the mirror word set whatever was read back, the verdict in the log
and in the valid bit (R193, C1). -/
theorem stageWord_ok {α : Type} (f : Proc α) {s : State} {k v : Word} {r1 r2 r3 : Answer} {rest : List Answer}
    (hr : BusReady s (slotAddress k)) (hk : k < s.scratchSize) (hc : k.toNat < s.params.mirrorCapacity)
    (h1 : FinalAnswer s r1) (h2 : FinalAnswer s r2) (h3 : FinalAnswer s r3) (hs : s.answers = r1 :: r2 :: r3 :: rest) :
    ∃ t evs, andThen (writeWordProc k v false) (fun _ => andThen (verifyWordProc k v) fun _ => f) s = f t ∧
      StagedFrame s t ∧ t.answers = rest ∧ t.scratchMirror = s.scratchMirror.set k.toNat v ∧
      t.log = s.log ++ stagedLog s [(k, v)] [r1, r2, r3] ∧
      t.scratchValidMask = stagedMask s [(k, v)] [r1, r2, r3] s.scratchValidMask ∧
      t.portTrace = s.portTrace ++ evs ∧ shiftsOf evs = [(busWidth s, assemble .write (slotAddress k) (wdata v false)),
        (busWidth s, assemble .read (slotAddress k) 0#34), (busWidth s, assemble .read 0#16 0#34)] := by
  have w := writeWordProc_ok (s := s) (index := k) (value := v) (f := false) (bs := []) (y := r1)
    (rest := r2 :: r3 :: rest) hr hk (by simp) (by simp) h1 hs
  set s1 : State := State.writeMirror _ _ _ _ with hs1
  have hb1 : s1.addressBits = s.addressBits := rfl
  have hmiss : cacheHit s1 (slotAddress k) = false := by simp [cacheHit, s1, State.writeMirror, State.driven, lastOpOf]
  have r := readWordProc_ok (s := s1) (index := k) (pre := [r2]) (bs := []) (y := r3) (rest := rest) hr.1 hr.2.1 hk
    (.inr ⟨hmiss, hr.2.2, LoopAnswers.one (finalAnswer_congr hb1 h2)⟩) (by simp) (by simp) (finalAnswer_congr hb1 h3) rfl
  have hm : s1.scratchMirror = s.scratchMirror.set k.toNat v := by simp [s1, State.writeMirror, State.driven, hc]
  have ht : s1.portTrace = s.portTrace ++ exchanges s .write (slotAddress k) (wdata v false) [r1] := by
    simp [s1, State.writeMirror, State.driven]
  have hw : busWidth s1 = busWidth s := rfl
  rw [andThen_ok w]
  let evs := exchanges s .write (slotAddress k) (wdata v false) [r1] ++ exchanges s1 .read (slotAddress k) 0#34 [r2] ++
    exchanges s1 .read 0#16 0#34 [r3]
  have he : (s1.readDone (slotAddress k) [r2] [] r3 rest).portTrace = s.portTrace ++ evs := by
    show s1.portTrace ++ _ ++ _ = _
    rw [ht]; simp [evs]
  have hsh : shiftsOf evs = [(busWidth s, assemble .write (slotAddress k) (wdata v false)),
      (busWidth s, assemble .read (slotAddress k) 0#34), (busWidth s, assemble .read 0#16 0#34)] := by
    simp [evs, shiftsOf_append, hw]
  have hlog : s1.log = s.log ++ softLog .write (slotAddress k) (answerCode s r1) := rfl
  have hmask : s1.scratchValidMask = s.scratchValidMask.set k.toNat (decide (answerCode s r1 = some .success)) := by
    simp [s1, State.driven, hc]
  have hc1 : k.toNat < s1.params.mirrorCapacity := hc
  by_cases hg : lowWord ((answerData s1 r3).zeroExtend 64) = v
  · refine ⟨s1.readDone (slotAddress k) [r2] [] r3 rest, evs, ?_, ⟨hr.1, rfl, rfl, rfl, rfl, rfl, rfl, rfl, rfl⟩, rfl,
      hm, ?_, ?_, he, hsh⟩
    · rw [andThen_ok (a := true)]
      rw [verifyWordProc, andThen_ok r, if_pos hg]; rfl
    · rw [lowWord_zeroExtend, answerData_any s] at hg
      show s1.log ++ _ ++ _ = _
      simp [hlog, stagedLog, hg, endCode, answerCode_any s s1]
    · rw [lowWord_zeroExtend, answerData_any s] at hg
      show s1.scratchValidMask = _
      simp [hmask, stagedMask, stagedValid, hg]
  · refine ⟨((s1.readDone (slotAddress k) [r2] [] r3 rest).appendLog
      (.verifyMismatch k v (lowWord ((answerData s1 r3).zeroExtend 64)))).clearValid k.toNat, evs, ?_,
      ⟨hr.1, rfl, rfl, rfl, rfl, rfl, rfl, rfl, rfl⟩, rfl, hm, ?_, ?_, he, hsh⟩
    · rw [andThen_ok (a := false)]
      rw [verifyWordProc, andThen_ok r, if_neg hg]; rfl
    · rw [lowWord_zeroExtend, answerData_any s] at hg ⊢
      show s1.log ++ _ ++ _ ++ _ = _
      simp [hlog, stagedLog, hg, endCode, answerCode_any s s1]
    · rw [lowWord_zeroExtend, answerData_any s] at hg
      show (if k.toNat < s1.params.mirrorCapacity then s1.scratchValidMask.set k.toNat false else s1.scratchValidMask) = _
      simp [hc1, hmask, stagedMask, stagedValid, hg]

/-- What any number of staged words leaves alone. -/
structure StagingFrame (s t : State) : Prop where
  session : SessionOpen t
  params : t.params = s.params
  addressBits : t.addressBits = s.addressBits
  scratchSize : t.scratchSize = s.scratchSize
  examined : t.examined = s.examined
  lifecycle : t.lifecycle = s.lifecycle
  irSelect : t.irSelect = s.irSelect

/-- The requests of one word staged and verified, on a bus of `w` address bits. -/
def stagedRequests (w : Nat) (p : Word × Word) : List (Nat × Nat) :=
  [(w + 36, assemble .write (slotAddress p.1) (wdata p.2 false)), (w + 36, assemble .read (slotAddress p.1) 0#34),
    (w + 36, assemble .read 0#16 0#34)]

/-- The first words of a staging, each on three final answers. -/
theorem stageWords_prefix (tail : List (Word × Word)) : ∀ (words : List (Word × Word)) (s : State) (rs rest : List Answer),
    SessionOpen s →
    (∀ p ∈ words, BusReady s (slotAddress p.1) ∧ p.1 < s.scratchSize ∧ p.1.toNat < s.params.mirrorCapacity) →
    rs.length = 3 * words.length → (∀ r ∈ rs, FinalAnswer s r) → s.answers = rs ++ rest →
    ∃ t evs, stageWords (words ++ tail) s = stageWords tail t ∧ StagingFrame s t ∧ t.answers = rest ∧
      t.scratchMirror = words.foldl (fun m p => m.set p.1.toNat p.2) s.scratchMirror ∧
      t.log = s.log ++ stagedLog s words rs ∧ t.scratchValidMask = stagedMask s words rs s.scratchValidMask ∧
      t.portTrace = s.portTrace ++ evs ∧ shiftsOf evs = words.flatMap (stagedRequests s.addressBits.toNat)
  | [], s, rs, rest, ho, _, hl, _, hs => by
    have : rs = [] := List.length_eq_zero_iff.1 (by simpa using hl)
    subst this
    exact ⟨s, [], rfl, ⟨ho, rfl, rfl, rfl, rfl, rfl, rfl⟩, hs, rfl, by simp [stagedLog], rfl, by simp, rfl⟩
  | (k, v) :: words, s, rs, rest, ho, hw, hl, hf, hs => by
    obtain ⟨r1, r2, r3, rs, rfl⟩ : ∃ a b c l, rs = a :: b :: c :: l := by
      match rs, hl with
      | a :: b :: c :: l, _ => exact ⟨a, b, c, l, rfl⟩
      | [], h | [_], h | [_, _], h => simp at h <;> omega
    have hk := hw (k, v) (by simp)
    obtain ⟨u, evs, e, hu, ha, hm, hl1, hv, ht, hsh⟩ := stageWord_ok (v := v) (stageWords (words ++ tail)) hk.1 hk.2.1 hk.2.2
      (hf r1 (by simp)) (hf r2 (by simp)) (hf r3 (by simp)) hs
    obtain ⟨t, evs', e', g, ha', hm', hl', hv', ht', hsh'⟩ := stageWords_prefix tail words u rs rest hu.session
      (fun p hp => by
        have h := hw p (by simp [hp])
        exact ⟨⟨hu.session, by rw [hu.addressBits]; exact h.1.2.1, by rw [hu.addressBits]; exact h.1.2.2⟩,
          by rw [hu.scratchSize]; exact h.2.1, by rw [hu.params]; exact h.2.2⟩)
      (by simp at hl; omega) (fun r hr => (hf r (by simp [hr])).any u) ha
    refine ⟨t, evs ++ evs', e.trans e', ⟨g.session, g.params.trans hu.params, g.addressBits.trans hu.addressBits,
      g.scratchSize.trans hu.scratchSize, g.examined.trans hu.examined, g.lifecycle.trans hu.lifecycle,
      g.irSelect.trans hu.irSelect⟩, ha', by rw [hm', hm]; rfl,
      by rw [hl', hl1, stagedLog_any s u]; simp [stagedLog], by rw [hv', hv]; simp [stagedMask, stagedValid, stagedValid_any s u],
      by rw [ht', ht, List.append_assoc], ?_⟩
    rw [shiftsOf_append, hsh, hsh', hu.addressBits]
    rfl

/-! ### The start of examine -/

/-- `read_dtm_info` answered with a legal width (R122). -/
theorem readDtmInfoProc_ok {s : State} {v : Nat} {late : Bool} {rest : List Answer} (ho : SessionOpen s)
    (hs : s.answers = .ok v late :: rest) (h : dtmAddressBits s.params (v % 2 ^ 32) ≤ 16) :
    readDtmInfoProc s = (.ok (BitVec.ofNat 8 (dtmAddressBits s.params (v % 2 ^ 32))), s.dtmRead v late rest) := by
  rw [readDtmInfoProc, andThen_ok (requireSession_open ho)]
  simp only [State.nextAnswer, State.portSelect, State.portShift, hs, storeAddressBits]
  rw [if_neg (by omega)]
  simp [State.setAddressBits, State.setIrSelect, State.flushed, State.nextAnswer, Answer.late, State.dtmRead]

/-- `examine` in an open session not yet examined starts (R193). -/
theorem examineProc_start {s : State} (ho : SessionOpen s) (hex : s.examined = false) : examineProc s = examineBody s := by
  rw [examineProc, andThen_ok (requireSession_open ho)]
  simp [hex]

/-- `examine` from the info register on (R193). -/
def examineFrom (info : BitVec 64) : Proc Unit :=
  andThen (acceptInfo info) fun _ =>
  andThen (fun s => stageWords (probeWords s.params.probe) s) fun _ =>
  andThen (writeResumeJumpProc 5#32 false) fun _ =>
  andThen (fun s => verifyWordProc 5#32 (resumeJumpWord s.params 5#32) s) fun _ =>
  update State.setExamined

/-- What `examine` has done when it looks at the info register, hit or miss, and where it goes on. -/
structure InfoRead (s t : State) (w : Nat) (pre : List Answer) (y : Answer) (rest : List Answer) : Prop where
  frame : StagingFrame { s with addressBits := BitVec.ofNat 8 w, irSelect := .dbus } t
  mirror : t.scratchMirror = s.scratchMirror
  mask : t.scratchValidMask = s.scratchValidMask
  answers : t.answers = rest
  log : t.log = s.log ++ softLog .read s.params.infoAddr (endCode s pre) ++ softLog .read 0#16 (answerCode s y)
  trace : ∃ evs, t.portTrace = s.portTrace ++ evs ∧
    shiftsOf evs = (32, 0) :: (if cacheHit s s.params.infoAddr = true then []
      else [(w + 36, assemble .read s.params.infoAddr 0#34)]) ++ [(w + 36, assemble .read 0#16 0#34)]

/-- `examine` up to the info register: the geometry, then one read (R193, R194). -/
theorem examineProc_info {s : State} {v w : Nat} {late : Bool} {pre rest : List Answer} {y : Answer} (ho : SessionOpen s)
    (hex : s.examined = false) (hs : s.answers = .ok v late :: (pre ++ y :: rest))
    (hpre : pre.length = (if cacheHit s s.params.infoAddr = true then 0 else 1)) (hf : ∀ r ∈ pre, FinalAnswer s r)
    (hy : FinalAnswer s y) (hw : w = dtmAddressBits s.params (v % 2 ^ 32)) (hw16 : w ≤ 16) (hw0 : w ≠ 0)
    (hia : s.params.infoAddr.toNat < 2 ^ w) :
    ∃ t, examineProc s = examineFrom ((answerData s y).zeroExtend 64) t ∧ InfoRead s t w pre y rest := by
  have e1 := readDtmInfoProc_ok ho hs (by omega)
  generalize hs1 : s.dtmRead v late (pre ++ y :: rest) = s1 at e1
  have hb : s1.addressBits.toNat = w := by
    subst hs1
    show (BitVec.ofNat 8 (dtmAddressBits s.params (v % 2 ^ 32))).toNat = w
    rw [← hw, BitVec.toNat_ofNat]; omega
  have hbw : busWidth s1 = w + 36 := by simp [busWidth, hb]
  have hz : s1.addressBits ≠ 0#8 := fun h => by rw [h] at hb; exact hw0 hb.symm
  have hcache : cacheHit s1 s1.params.infoAddr = cacheHit s s.params.infoAddr := by subst hs1; rfl
  have hip : s1.params.infoAddr = s.params.infoAddr := by subst hs1; rfl
  have ho1 : SessionOpen s1 := by subst hs1; exact ho
  have hp : AddressPhaseAnswers s1 s1.params.infoAddr pre := by
    by_cases hc : cacheHit s s.params.infoAddr = true
    · rw [if_pos hc] at hpre
      exact .inl ⟨hcache.trans hc, List.length_eq_zero_iff.1 hpre⟩
    · rw [if_neg hc] at hpre
      obtain ⟨x, rfl⟩ := List.length_eq_one_iff.1 hpre
      exact .inr ⟨by rw [hcache]; simpa using hc, by rw [hb, hip]; exact hia, LoopAnswers.one ((hf x (by simp)).any s1)⟩
  have e2 := readProc_ok (bs := []) ho1 hz hp (by simp) (by simp) (hy.any s1) (rest := rest) (by subst hs1; rfl)
  have hl : (s1.readDone s1.params.infoAddr pre [] y rest).log =
      s.log ++ softLog .read s.params.infoAddr (endCode s pre) ++ softLog .read 0#16 (answerCode s y) := by
    show s1.log ++ _ ++ _ = _
    rw [endCode_any s, answerCode_any s, hip, show s1.log = s.log by subst hs1; rfl]
  refine ⟨s1.readDone s1.params.infoAddr pre [] y rest, ?_, ⟨ho1, ?_, ?_, ?_, ?_, ?_, ?_⟩, ?_, ?_, rfl, hl, [.select .dtminfo, .shift 32 0, .select .dbus, .flush (.ok v late)] ++
    exchanges s1 .read s1.params.infoAddr 0#34 pre ++ exchanges s1 .read 0#16 0#34 [y], ?_, ?_⟩
  · rw [examineProc_start ho hex, examineBody, andThen_ok e1]
    exact (andThen_ok e2).trans (by rw [answerData_any s]; rfl)
  all_goals try (subst hs1 hw; rfl)
  · show s1.portTrace ++ _ ++ _ = _
    subst hs1; simp [State.dtmRead]
  · rw [shiftsOf_append, shiftsOf_append, shiftsOf_exchanges_one, hbw, hip]
    by_cases hc : cacheHit s s.params.infoAddr = true
    · rw [if_pos hc] at hpre ⊢
      rw [List.length_eq_zero_iff.1 hpre]
      rfl
    · rw [if_neg hc] at hpre ⊢
      obtain ⟨x, rfl⟩ := List.length_eq_one_iff.1 hpre
      rw [shiftsOf_exchanges_one, hbw]
      rfl

end Sys2Proof.Machine
end

