-- ==== Sys2Proof/Laws/Commands.lean ====
section
/-! SUPPORT. Sys2Proof/Laws/Commands.lean: how a command that comes to a `read` or to a write loop ends when that part does not end
normally: as the part does (spec/00_scope.md R11), with nothing done after it; and `examine` as the run of its remaining words. -/

namespace Sys2Proof.Machine

variable {s s1 t : State} {i : Instr} {a : DbusAddr} {v : DbusData}

/-! ### A part that does not end normally -/

/-- The two ways a procedure does not end normally (R11). -/
inductive Stop where
  | err (kind : FatalKind)
  | refused (kind : RefusalKind)

/-- The end itself, whatever the procedure would have returned. -/
def Stop.res {α : Type} : Stop → Res α
  | .err k => .err k
  | .refused k => .refused k

/-- What a command that ends so returns. -/
def Stop.result : Stop → CmdResult
  | .err k => .err k
  | .refused k => .refused k

variable {e : Stop}

/-- The rest of a sequence does not run. -/
theorem andThen_stop {α β : Type} {p : Proc α} {f : α → Proc β} (h : p s = (e.res, t)) : andThen p f s = (e.res, t) := by
  cases e
  · exact andThen_err h
  · exact andThen_refused h

theorem finish_stop {α : Type} {p : Proc α} {f : α → Value} (h : p s = (e.res, t)) :
    finish p f s = .next (t.setResult e.result) := by
  cases e
  · exact finish_err h
  · exact finish_refused h

/-- A `read_word` whose `read` stops. -/
theorem readWordProc_stop {index : Word} (ho : SessionOpen s) (hi : index < s.scratchSize)
    (h : readProc (slotAddress index) s = (e.res, t)) : readWordProc index s = (e.res, t) := by
  rw [readWordProc, andThen_ok (requireSession_open ho), andThen_ok (requireIndex_legal hi), andThen_stop h]

/-- A `verify_word` whose `read` stops compares nothing (R176). -/
theorem verifyWordProc_stop {index expected : Word} (ho : SessionOpen s) (hi : index < s.scratchSize)
    (h : readProc (slotAddress index) s = (e.res, t)) : verifyWordProc index expected s = (e.res, t) := by
  rw [verifyWordProc, andThen_stop (readWordProc_stop ho hi h)]

theorem writeProc_stop (h : scanRetry .write a v s = (e.res, t)) : writeProc a v s = (e.res, t) := by
  rw [writeProc, andThen_stop h]

/-- A `write_word` whose loop stops touches neither mirror nor mask (R174). -/
theorem writeWordProc_stop {index value : Word} {f : Bool} (ho : SessionOpen s) (hi : index < s.scratchSize)
    (h : scanRetry .write (slotAddress index) (wdata value f) s = (e.res, t)) :
    writeWordProc index value f s = (e.res, t) := by
  rw [writeWordProc, andThen_ok (requireSession_open ho), andThen_ok (requireIndex_legal hi), andThen_stop (writeProc_stop h)]

/-- `scan` and the four request rows are one scan (R130, R150). -/
theorem exec_scanOf {op : WireOp} {d : DbusData} (hi : i ∈ [.scan op a d, requestInstr op a d])
    (h : ∀ f, finish (scanProc op a d) f s = .next t) : exec i s = .next t := by
  simp only [List.mem_cons, List.not_mem_nil, or_false] at hi
  rcases hi with rfl | rfl
  · exact h _
  · cases op <;> exact h _

/-! ### `halt` -/

theorem requireTwoSlots_legal (h : 2#32 ≤ s.scratchSize) : requireTwoSlots s = (.ok (), s) := by
  have : ¬ s.scratchSize < 2#32 := by bv_omega
  simp [requireTwoSlots, this]

/-- What a hook that ran leaves for `halt`: the same parameters and the same Debug RAM. -/
theorem HookRuns.frame {n : HookName} (h : HookRuns n s t) : EngineFrame s t := by
  have g := Framed.callHook n s
  rwa [callHook_runs h] at g

/-- `halt` up to its first write. -/
theorem haltProc_started (ho : SessionOpen s) (h : 2#32 ≤ s.scratchSize) (hr : HookRuns .preHalt s t) :
    haltProc s = andThen (fun s => writeWordProc 0#32 s.params.haltInsn false s) (fun _ => writeResumeJumpProc 1#32 true) t := by
  rw [haltProc, andThen_ok (requireSession_open ho), andThen_ok (requireTwoSlots_legal h), andThen_ok (callHook_runs hr)]

/-! ### `examine`, word by word -/

/-- A word write that ended normally was in an open session, to a slot that exists (R237, R171). -/
theorem writeWordProc_inv {index value : Word} {f : Bool} {u : Unit} (h : writeWordProc index value f s = (.ok u, t)) :
    SessionOpen s ∧ index < s.scratchSize := by
  rw [writeWordProc] at h
  obtain ⟨_, u, hs, h'⟩ := andThen_ok_inv h
  obtain ⟨ho, rfl⟩ := requireSession_inv hs
  obtain ⟨_, _, hi, -⟩ := andThen_ok_inv h'
  exact ⟨ho, (requireIndex_inv hi).1⟩

theorem writeWordProc_frame {index value : Word} {f : Bool} {u : Unit} (h : writeWordProc index value f s = (.ok u, t)) :
    EngineFrame s t := by
  have g := Framed.writeWord index value f s
  rwa [h] at g

theorem verifyWordProc_frame {index value : Word} {b : Bool} (h : verifyWordProc index value s = (.ok b, t)) :
    EngineFrame s t := by
  have g := Framed.verifyWord index value s
  rwa [h] at g

/-- `examine` from the words still to be staged: each written and verified, the last by `write_resume_jump` (R193). -/
def stageRest : List (Word × Word) → Proc Unit
  | [] => update State.setExamined
  | [(index, _)] =>
    andThen (writeResumeJumpProc index false) fun _ =>
    andThen (fun s => verifyWordProc index (resumeJumpWord s.params index) s) fun _ =>
    update State.setExamined
  | (index, value) :: next :: words =>
    andThen (writeWordProc index value false) fun _ =>
    andThen (verifyWordProc index value) fun _ =>
    stageRest (next :: words)

theorem stageRest_last (index value : Word) :
    stageRest [(index, value)] = andThen (writeResumeJumpProc index false) fun _ =>
      andThen (fun s => verifyWordProc index (resumeJumpWord s.params index) s) fun _ => update State.setExamined := rfl

/-- Words staged, and then the last. -/
theorem stageRest_append (last : Word × Word) :
    ∀ words, andThen (stageWords words) (fun _ => stageRest [last]) = stageRest (words ++ [last])
  | [] => rfl
  | [(_, _)] => by rw [stageWords, andThen_assoc]; simp only [andThen_assoc]; rfl
  | (_, _) :: next :: words => by
    rw [stageWords, andThen_assoc]; simp only [andThen_assoc, stageRest_append last (next :: words)]; rfl

/-- After the info register `examine` is the run of all six words. -/
theorem examineFrom_stageRest {info : BitVec 64} (ha : acceptInfo info s = (.ok (), t)) (hp : t.params = s.params) :
    examineFrom info s = stageRest (examineWords s.params) t := by
  rw [examineFrom, andThen_ok ha, examineWords, ← stageRest_append, stageRest_last, ← hp]
  simp only [andThen]

/-- A word, in the state `examine` has come to: it is written by the loop of a word write, and verified. -/
theorem stageRest_cons {p : Params} {index value : Word} {words : List (Word × Word)}
    (hw : (index, value) :: words <:+ examineWords p) (hp : s.params = p) (ho : SessionOpen s) (hi : index < s.scratchSize)
    (hj : words = [] → jumpOffsetLegal (jumpOffset p index) = true) :
    stageRest ((index, value) :: words) s =
      andThen (writeWordProc index value false)
        (fun _ => andThen (verifyWordProc index value) fun _ => stageRest words) s := by
  cases words with
  | cons next words => rfl
  | nil =>
    have hv : (index, value) = (5#32, resumeJumpWord p 5#32) := by
      have := hw.getLast (by simp)
      simpa [examineWords] using this
    injection hv with h1 h2
    subst h1 h2 hp
    have e := writeResumeJumpProc_legal ho hi (f := false) (hj rfl)
    rcases h : writeWordProc 5#32 (resumeJumpWord s.params 5#32) false s with ⟨⟨⟩ | k | k, u⟩ <;> rw [h] at e
    · rw [stageRest_last, andThen_ok e, andThen_ok h, ← (writeWordProc_frame h).params]
      rfl
    · rw [stageRest_last, andThen_err e, andThen_err h]
    · rw [stageRest_last, andThen_refused e, andThen_refused h]

/-- `examine` come to `t` with words still to be staged goes on with them. -/
theorem Staging.runs {words : List (Word × Word)} (h : Staging s words t) (ho : SessionOpen s) :
    examineProc s = stageRest words t ∧ t.params = s.params ∧ words <:+ examineWords s.params := by
  induction h with
  | @start v late rest info t u hx hs hw hr ha =>
    have ht : t.params = s.params := by
      have g := (Framed.read s.params.infoAddr (s.dtmRead v late rest)).params
      rwa [hr] at g
    have hu : u.params = t.params := by
      rcases acceptInfo_cases info t with ⟨k, e⟩ | ⟨_, _, e⟩
      · rw [ha] at e; cases e
      · rw [ha] at e; cases e; rfl
    refine ⟨?_, hu.trans ht, List.suffix_refl _⟩
    rw [examineProc_start ho hx, examineBody, andThen_ok (readDtmInfoProc_ok ho hs hw), ← ht, ← examineFrom_stageRest ha hu]
    exact andThen_ok hr
  | @next index value words t u w verdict _ hj hw hv ih =>
    obtain ⟨e, hp, hsuf⟩ := ih
    obtain ⟨hot, hi⟩ := writeWordProc_inv hw
    refine ⟨?_, (verifyWordProc_frame hv).params.trans ((writeWordProc_frame hw).params.trans hp),
      (List.suffix_cons _ _).trans hsuf⟩
    rw [e, stageRest_cons hsuf hp hot hi hj, andThen_ok hw, andThen_ok hv]

/-- A word staged and verified on three final answers: `examine` comes to the words after it (R193). -/
theorem Staging.word {index value : Word} {word : Word × Word} {words : List (Word × Word)} {r1 r2 r3 : Answer}
    {rest : List Answer} (h : Staging s ((index, value) :: word :: words) t) (hr : BusReady t (slotAddress index))
    (hi : index < t.scratchSize) (hc : index.toNat < t.params.mirrorCapacity) (h1 : FinalAnswer t r1) (h2 : FinalAnswer t r2)
    (h3 : FinalAnswer t r3) (hs : t.answers = r1 :: r2 :: r3 :: rest) :
    ∃ w, Staging s (word :: words) w ∧ StagedFrame t w ∧ w.answers = rest := by
  obtain ⟨w, _, e, hf, ha, _⟩ := stageWord_ok (done ()) (v := value) hr hi hc h1 h2 h3 hs
  obtain ⟨_, u, hw, e⟩ := andThen_ok_inv e
  obtain ⟨b, x, hv, e⟩ := andThen_ok_inv e
  cases e
  exact ⟨w, .next h (by simp) hw hv, hf, ha⟩

/-! ### A command whose part stops stops with it -/

/-- A command whose `read` stops ends as that `read` does (R11). -/
theorem exec_read_stops (h : ComesToRead s i s1 a) (ho : SessionOpen s) (ho1 : SessionOpen s1)
    (hr : readProc a s1 = (e.res, t)) : exec i s = .next (t.setResult e.result) := by
  cases h with
  | read => exact finish_stop hr
  | readWord index h => exact finish_stop (readWordProc_stop ho h hr)
  | verifyWord index x h => exact finish_stop (verifyWordProc_stop ho h hr)
  | poll => exact finish_stop (by rw [pollProc, andThen_ok (requireSession_open ho), andThen_stop hr])
  | examineInfo hx hs hw =>
    refine finish_stop (p := examineProc) ?_
    rw [examineProc_start ho hx, examineBody, andThen_ok (readDtmInfoProc_ok ho hs hw)]
    exact andThen_stop hr
  | examineVerify h hj hw =>
    obtain ⟨hx, hp, hsuf⟩ := h.runs ho
    obtain ⟨hot, hi⟩ := writeWordProc_inv hw
    refine finish_stop (p := examineProc) ?_
    rw [hx, stageRest_cons hsuf hp hot hi hj, andThen_ok hw,
      andThen_stop (verifyWordProc_stop ho1 (by rw [(writeWordProc_frame hw).scratchSize]; exact hi) hr)]

/-- A command whose write loop stops ends as that loop does (R11). -/
theorem exec_write_stops (h : ComesToWrite s i s1 a v) (ho : SessionOpen s) (ho1 : SessionOpen s1)
    (hr : scanRetry .write a v s1 = (e.res, t)) : exec i s = .next (t.setResult e.result) := by
  cases h with
  | write => exact finish_stop (writeProc_stop hr)
  | writeWord index value f h => exact finish_stop (writeWordProc_stop ho h hr)
  | writeResumeJump index f h hj =>
    exact finish_stop (by rw [writeResumeJumpProc_legal ho h hj]; exact writeWordProc_stop ho h hr)
  | halt _ h hk =>
    have g := hk.frame
    refine finish_stop (p := haltProc) ?_
    rw [haltProc_started ho h hk, andThen_stop]
    exact writeWordProc_stop ho1 (by rw [g.scratchSize]; bv_omega) (by rw [g.params]; exact hr)
  | @haltJump u _ h hk hw hj =>
    have g := hk.frame
    have g1 := g.trans (writeWordProc_frame hw)
    refine finish_stop (p := haltProc) ?_
    rw [haltProc_started ho h hk, andThen_ok (by rw [g.params]; exact hw),
      writeResumeJumpProc_legal ho1 (by rw [g1.scratchSize]; bv_omega) (by rw [g1.params]; exact hj), g1.params]
    exact writeWordProc_stop ho1 (by rw [g1.scratchSize]; bv_omega) hr
  | examine h hi hj =>
    obtain ⟨hx, hp, hsuf⟩ := h.runs ho
    refine finish_stop (p := examineProc) ?_
    rw [hx, stageRest_cons hsuf hp ho1 hi hj, andThen_stop (writeWordProc_stop ho1 hi hr)]

end Sys2Proof.Machine
end

