-- ==== Sys2Proof/Laws/Exec.lean ====
section
/-! SUPPORT. Sys2Proof/Laws/Exec.lean: what an instruction can do, said once for all of them: the shape of the next state, from every
state, on every answer and for every hook behaviour. -/

namespace Sys2Proof.Machine

/-- The next states of `exec`, by what they may change. -/
inductive ExecShape (s : State) : Instr → State → Prop where
  /-- Only what the engine, the Debug RAM commands and the hooks may change. -/
  | engine (i : Instr) {u : State} (r : CmdResult) (frame : EngineFrame s u) (loop : s.retry = none → u.retry = none) :
      ExecShape s i (u.setResult r)
  | selectDtminfo : ExecShape s .selectDtminfo (s.portSelect .dtminfo)
  | selectDbus : ExecShape s .selectDbus (s.portSelect .dbus)
  | jumpWord (imm : BitVec 21) : ExecShape s (.jumpWord imm) (s.setCorePc (jumpTarget s.corePc imm))
  | attach : ExecShape s .attach ((s.startSession true).setResult (.ok .unit))
  | detach : ExecShape s .detach ((s.startSession false).setResult (.ok .unit))
  | readDtmInfo (r : CmdResult) : ExecShape s .readDtmInfo ((readDtmInfoProc s).2.setResult r)
  | examine (r : CmdResult) : ExecShape s .examine ((examineProc s).2.setResult r)
  | poll {u : State} (l : Lifecycle) (r : CmdResult) (frame : EngineFrame s u) (loop : s.retry = none → u.retry = none) :
      ExecShape s .poll ((u.setLifecycle l).setResult r)
  | deviceReset {u : State} (r : CmdResult) (frame : EngineFrame s.invalidateOnDeviceReset u)
      (loop : s.retry = none → u.retry = none) : ExecShape s .deviceReset (u.setResult r)

/-- A framed procedure, run as a command. -/
theorem finish_shape {α : Type} (i : Instr) {p : Proc α} (f : α → Value) (s : State) (hf : Framed p) (hc : ClosesLoop p) :
    ∃ t, finish p f s = .next t ∧ ExecShape s i t := by
  obtain ⟨r, h⟩ := finish_next p f s
  exact ⟨_, h, .engine i r (hf s) (hc s)⟩

theorem ClosesLoop.receive (c : ResultCode) (d : DbusData) : ClosesLoop (Machine.receive c d) :=
  fun s _ => respond_retry _ c d s

theorem ClosesLoop.examine : ClosesLoop examineProc := by
  refine ClosesLoop.andThen ClosesLoop.requireSession fun _ s h => ?_
  split
  · exact h
  refine ClosesLoop.andThen (fun s h => (readDtmInfoProc_examined s).2.2.trans h) (fun _ =>
    ClosesLoop.andThen (fun s h => ClosesLoop.read _ s h) fun info =>
    ClosesLoop.andThen (fun s h => ?_) fun _ =>
    ClosesLoop.andThen (fun s h => ClosesLoop.stageWords _ s h) fun _ =>
    ClosesLoop.andThen (ClosesLoop.writeResumeJump _ _) fun _ =>
    ClosesLoop.andThen (fun s h => ClosesLoop.verifyWord _ _ s h) fun _ => fun _ h => h) s h
  rcases acceptInfo_cases info s with ⟨k, e⟩ | ⟨_, _, e⟩ <;> rw [e] <;> exact h

/-- What each instruction can do. -/
theorem exec_shape (i : Instr) (s : State) : ∃ t, exec i s = .next t ∧ ExecShape s i t := by
  cases i with
  | dbusNop a d => exact finish_shape _ _ s (Framed.scan _ _ _) (ClosesLoop.scan _ _ _)
  | dbusRead a d => exact finish_shape _ _ s (Framed.scan _ _ _) (ClosesLoop.scan _ _ _)
  | dbusWrite a d => exact finish_shape _ _ s (Framed.scan _ _ _) (ClosesLoop.scan _ _ _)
  | dbusConditionalWrite a d => exact finish_shape _ _ s (Framed.scan _ _ _) (ClosesLoop.scan _ _ _)
  | rspSuccess a d => exact finish_shape _ _ s (Framed.receive _ _) (ClosesLoop.receive _ _)
  | rspNoWrite a d => exact finish_shape _ _ s (Framed.receive _ _) (ClosesLoop.receive _ _)
  | rspFailed a d => exact finish_shape _ _ s (Framed.receive _ _) (ClosesLoop.receive _ _)
  | rspBusy a d => exact finish_shape _ _ s (Framed.receive _ _) (ClosesLoop.receive _ _)
  | selectDtminfo => exact ⟨_, rfl, .selectDtminfo⟩
  | selectDbus => exact ⟨_, rfl, .selectDbus⟩
  | attach => exact ⟨_, rfl, .attach⟩
  | detach => exact ⟨_, rfl, .detach⟩
  | readDtmInfo =>
    obtain ⟨r, h⟩ := finish_next readDtmInfoProc (fun w => .addressBits w) s
    exact ⟨_, h, .readDtmInfo r⟩
  | scan op a d => exact finish_shape _ _ s (Framed.scan _ _ _) (ClosesLoop.scan _ _ _)
  | read a => exact finish_shape _ _ s (Framed.read _) (ClosesLoop.read _)
  | write a v => exact finish_shape _ _ s (Framed.write _ _) (ClosesLoop.write _ _)
  | readWord x => exact finish_shape _ _ s (Framed.readWord _) (ClosesLoop.readWord _)
  | writeWord x v f => exact finish_shape _ _ s (Framed.writeWord _ _ _) (ClosesLoop.writeWord _ _ _)
  | verifyWord x v => exact finish_shape _ _ s (Framed.verifyWord _ _) (ClosesLoop.verifyWord _ _)
  | writeResumeJump x f => exact finish_shape _ _ s (Framed.writeResumeJump _ _) (ClosesLoop.writeResumeJump _ _)
  | examine =>
    obtain ⟨r, h⟩ := finish_next examineProc (fun _ => .unit) s
    exact ⟨_, h, .examine r⟩
  | poll =>
    obtain ⟨r, h⟩ := finish_next pollProc (fun l => .lifecycle l) s
    refine ⟨_, h, ?_⟩
    rcases andThen_cases requireSession (fun _ s => andThen (readProc (pollAddress s)) decodeStatus s) s with ⟨_, _, e⟩ | e
    · rw [pollProc, e, requireSession_state]
      rcases andThen_cases (readProc (pollAddress s)) decodeStatus s with ⟨v, _, e⟩ | e
      · rw [e]; exact .poll _ r (Framed.read _ s) (ClosesLoop.read _ s)
      · rw [e]; exact .engine _ r (Framed.read _ s) (ClosesLoop.read _ s)
    · rw [pollProc, e, requireSession_state]; exact .engine _ r (EngineFrame.refl s) id
  | halt => exact finish_shape _ _ s Framed.halt ClosesLoop.halt
  | assertReset => exact finish_shape _ _ s Framed.requireSession ClosesLoop.requireSession
  | deassertReset => exact finish_shape _ _ s Framed.requireSession ClosesLoop.requireSession
  | deviceReset =>
    obtain ⟨r, h⟩ := finish_next deviceResetProc (fun _ => .unit) s
    refine ⟨_, h, ?_⟩
    rcases andThen_cases requireSession (fun _ => andThen (update State.invalidateOnDeviceReset) fun _ =>
      andThen (callHook .onReset) fun _ => callHook .postReset) s with ⟨_, _, e⟩ | e
    · rw [deviceResetProc, e, requireSession_state, andThen_ok (update_apply _ _)]
      exact .deviceReset r (Framed.andThen (Framed.callHook _) (fun _ => Framed.callHook _) _)
        (fun h => ClosesLoop.andThen (ClosesLoop.callHook .onReset) (fun _ => ClosesLoop.callHook .postReset)
          s.invalidateOnDeviceReset h)
    · rw [deviceResetProc, e, requireSession_state]; exact .engine _ r (EngineFrame.refl s) id
  | jumpWord imm => exact ⟨_, rfl, .jumpWord imm⟩

end Sys2Proof.Machine
end

