-- ==== Sys2Proof/Laws/Mirror.lean ====
section
/-! SUPPORT. Sys2Proof/Laws/Mirror.lean: what the engine leaves exactly as it is, as a view of the state that none of its updates
touches; the mirror and its valid mask are such views (spec/10_state.md R27, R28), and the writers of each. -/

namespace Sys2Proof.Machine

/-! ### The mirror as the front end reads it (R28, R40) -/

@[simp] theorem State.readMirror_setResult (s : State) (r : CmdResult) (i : Nat) :
    (s.setResult r).readMirror i = s.readMirror i := rfl

/-- A mirror word just written reads as what was written, or, its valid bit clear, as the fault of a word that holds no value. -/
theorem State.readMirror_writeMirror (s : State) {i : Nat} (v : Word) (valid : Bool)
    (hm : s.scratchMirror.length = s.params.mirrorCapacity) (hv : s.scratchValidMask.length = s.params.mirrorCapacity)
    (hi : i < s.params.mirrorCapacity) :
    (s.writeMirror i v valid).readMirror i = if valid then .ok v else .error (.mirrorWordHoldsNoValue i) := by
  cases valid <;> simp [State.readMirror, State.writeMirror, hi, hm, hv]

/-! ### Views the engine does not touch -/

/-- A view of the state that no update of the engine touches. -/
structure EngineBlind {β : Type} (view : State → β) : Prop where
  setRetry : ∀ s r, view (s.setRetry r) = view s
  appendLog : ∀ s r, view (s.appendLog r) = view s
  recordFault : ∀ s k, view (s.recordFault k) = view s
  scanned : ∀ s op a d, view (s.scanned op a d) = view s

theorem mirror_blind : EngineBlind State.scratchMirror :=
  ⟨fun _ _ => rfl, fun _ _ => rfl, fun _ _ => rfl, fun _ _ _ _ => rfl⟩

theorem mask_blind : EngineBlind State.scratchValidMask :=
  ⟨fun _ _ => rfl, fun _ _ => rfl, fun _ _ => rfl, fun _ _ _ _ => rfl⟩

/-- A procedure that leaves a view as it is, from every state. -/
def Keeps {α β : Type} (view : State → β) (p : Proc α) : Prop := ∀ s, view (p s).2 = view s

namespace Keeps

variable {α β γ : Type} {view : State → γ}

theorem still {p : Proc α} (h : ∀ s, (p s).2 = s) : Keeps view p := fun s => by rw [h]

theorem done (a : α) : Keeps view (Machine.done a) := still fun _ => rfl

theorem andThen {p : Proc α} {f : α → Proc β} (hp : Keeps view p) (hf : ∀ a, Keeps view (f a)) :
    Keeps view (Machine.andThen p f) := by
  intro s
  rcases andThen_cases p f s with ⟨a, _, h⟩ | h <;> rw [h]
  · exact (hf a _).trans (hp s)
  · exact hp s

variable (hv : EngineBlind view)
include hv

theorem scan (op : WireOp) (a : DbusAddr) (d : DbusData) : Keeps view (scanProc op a d) := by
  intro s
  rcases scanProc_cases s op a d with ⟨k, h⟩ | ⟨_, _, h⟩ | ⟨_, _, h⟩ | ⟨_, _, _, _, h⟩ <;> rw [h]
  · exact hv.recordFault _ _
  · exact (hv.recordFault _ _).trans (hv.scanned _ _ _ _)
  · exact hv.scanned _ _ _ _

theorem respond : ∀ (n : Nat) (c : ResultCode) (d : DbusData), Keeps view (Machine.respond n c d)
  | n, .success, d => fun s => by
    rcases h : s.retry with _ | l
    · rw [respond_bare h]
    · rw [respond_success h]; exact hv.setRetry _ _
  | n, .noWrite, d => fun s => by
    rcases h : s.retry with _ | l
    · rw [respond_bare h]
    · rw [respond_noWrite h]; exact (hv.setRetry _ _).trans (hv.appendLog _ _)
  | n, .failed, d => fun s => by
    rcases h : s.retry with _ | l
    · rw [respond_bare h]
    · rw [respond_failed h]; exact (hv.setRetry _ _).trans (hv.appendLog _ _)
  | 0, .busy, d => fun s => by
    rcases h : s.retry with _ | l
    · rw [respond_bare h]
    · rw [respond_ceiling h]; exact (hv.recordFault _ _).trans (hv.setRetry _ _)
  | n + 1, .busy, d => fun s => by
    rcases h : s.retry with _ | l
    · rw [respond_bare h]
    by_cases ht : timedOut s = true
    · rw [respond_timeout h ht]; exact (hv.recordFault _ _).trans (hv.setRetry _ _)
    rw [respond_again h (by simpa using ht)]
    have hs := (scan hv l.op l.address l.dataOut (s.setRetry (some { l with retries := l.retries + 1 }))).trans
      (hv.setRetry s _)
    split
    · next c d' s1 e => rw [e] at hs; exact (respond n c d' s1).trans hs
    · next k s1 e => rw [e] at hs; exact (hv.setRetry s1 _).trans hs
    · next k s1 e => rw [e] at hs; exact (hv.setRetry s1 _).trans hs

theorem receive (c : ResultCode) (d : DbusData) : Keeps view (Machine.receive c d) := fun s =>
  respond hv (retriesLeft s) c d s

theorem scanRetry (op : WireOp) (a : DbusAddr) (d : DbusData) : Keeps view (Machine.scanRetry op a d) := by
  intro s
  have hs := (scan hv op a d (s.setRetry (some ⟨op, a, d, 0⟩))).trans (hv.setRetry s _)
  rcases e : scanProc op a d (s.setRetry (some ⟨op, a, d, 0⟩)) with ⟨⟨c, d'⟩ | k | k, s1⟩ <;> rw [e] at hs
  · rw [scanRetry_ok e]; exact (receive hv c d' s1).trans hs
  · rw [scanRetry_err e]; exact (hv.setRetry s1 _).trans hs
  · rw [scanRetry_refused e]; exact (hv.setRetry s1 _).trans hs

theorem read (a : DbusAddr) : Keeps view (readProc a) := by
  refine andThen (fun s => ?_) fun _ => andThen (scanRetry hv _ _ _) fun _ => done _
  unfold addressPhase
  split
  · rfl
  · exact andThen (scanRetry hv _ _ _) (fun _ => done ()) s

theorem write (a : DbusAddr) (v : DbusData) : Keeps view (writeProc a v) :=
  andThen (scanRetry hv _ _ _) fun _ => done _

theorem readWord (i : Word) : Keeps view (readWordProc i) :=
  andThen (still requireSession_state) fun _ => andThen (still (requireIndex_state i)) fun _ =>
    andThen (read hv _) fun _ => done _

end Keeps

/-- `verify_word` leaves the mirror, though not its valid mask. -/
theorem Keeps.verifyWord_mirror (i e : Word) : Keeps State.scratchMirror (verifyWordProc i e) := by
  refine Keeps.andThen (Keeps.readWord mirror_blind i) fun got => ?_
  intro s
  split <;> rfl

/-- A test before a procedure is not seen in a view that the rest keeps when it does not end normally. -/
theorem stopped_tested {α β γ : Type} {view : State → γ} {p : Proc α} {f : α → Proc β} {s : State} (hp : (p s).2 = s)
    (hf : ∀ a, (∀ b, (f a s).1 ≠ .ok b) → view (f a s).2 = view s) (h : ∀ b, (andThen p f s).1 ≠ .ok b) :
    view (andThen p f s).2 = view s := by
  rcases andThen_cases p f s with ⟨a, _, e⟩ | e
  · rw [e, hp] at h ⊢; exact hf a h
  · rw [e, hp]

/-- A word command that does not end normally has written neither mirror nor mask (R174, R176, R178). -/
theorem writeWordProc_stopped {γ : Type} {view : State → γ} (hv : EngineBlind view) {index value : Word} {f : Bool} {s : State}
    (h : ∀ b, (writeWordProc index value f s).1 ≠ .ok b) : view (writeWordProc index value f s).2 = view s :=
  stopped_tested (requireSession_state s) (fun _ => stopped_tested (requireIndex_state index s) fun _ h => by
    rw [(andThen_stopped (fun _ _ => ⟨(), rfl⟩) h).1]
    exact Keeps.write hv _ _ s) h

theorem writeResumeJumpProc_stopped {γ : Type} {view : State → γ} (hv : EngineBlind view) {index : Word} {f : Bool} {s : State}
    (h : ∀ b, (writeResumeJumpProc index f s).1 ≠ .ok b) : view (writeResumeJumpProc index f s).2 = view s :=
  stopped_tested (requireSession_state s) (fun _ => stopped_tested (requireIndex_state index s) fun _ h =>
    stopped_tested (p := requireJump (jumpOffset s.params index))
      (f := fun _ => writeWordProc index (resumeJumpWord s.params index) f) (by unfold requireJump; split <;> rfl)
      (fun _ => writeWordProc_stopped hv) h) h

theorem verifyWordProc_stopped {γ : Type} {view : State → γ} (hv : EngineBlind view) {index expected : Word} {s : State}
    (h : ∀ b, (verifyWordProc index expected s).1 ≠ .ok b) : view (verifyWordProc index expected s).2 = view s := by
  unfold verifyWordProc at h ⊢
  rw [(andThen_stopped (fun got t => by split <;> exact ⟨_, rfl⟩) h).1]
  exact Keeps.readWord hv _ s

/-- `read_dtm_info` leaves both. -/
theorem readDtmInfoProc_mirror (s : State) :
    (readDtmInfoProc s).2.scratchMirror = s.scratchMirror ∧
      (readDtmInfoProc s).2.scratchValidMask = s.scratchValidMask := by
  rcases readDtmInfoProc_cases s with ⟨k, e⟩ | ⟨_, e | ⟨n, e⟩ | ⟨w, _, e⟩⟩ <;> rw [e] <;> exact ⟨rfl, rfl⟩

end Sys2Proof.Machine
end

