-- ==== Sys2Proof/Laws/PerInstr.lean ====
section
/-! SUPPORT. Sys2Proof/Laws/PerInstr.lean: a fact said of every instruction, one lemma per constructor: its encoding has no bit
above the last bit of its format (spec/30_encoding.md R90, R95, R105). -/

namespace Sys2Proof.Laws.FitsFormat

/-- The greatest length of a word of each format: `IR_LEN`, 52, 52, 32, and 5 code bits under at most 65 operand bits. -/
def formatBits (p : Params) : Format → Nat
  | .irsel => p.irLen
  | .dbusReq => 52
  | .dbusRsp => 52
  | .jump => 32
  | .cmd => 70

/-- The encoding of an instruction fits its format. -/
def Statement (i : Instr) : Prop :=
  ∀ p : Params, p.wellFormed = true → (encode p i).val < 2 ^ formatBits p (encode p i).fmt

/-- A command word with its operand bits below the 65 that the longest command has. -/
theorem commandWord_lt {code rest : Nat} (hc : code < 32) (hr : rest < 2 ^ 65) :
    (commandWord code rest).val < 2 ^ 70 := by
  simp only [commandWord]
  rw [shiftLeft_or_eq_add _ _ 5 (by omega)]
  omega

theorem dbusNop (address : DbusAddr) (data : DbusData) : Statement (.dbusNop address data) :=
  fun _ _ => assemble_lt _ _ _

theorem dbusRead (address : DbusAddr) (data : DbusData) : Statement (.dbusRead address data) :=
  fun _ _ => assemble_lt _ _ _

theorem dbusWrite (address : DbusAddr) (data : DbusData) : Statement (.dbusWrite address data) :=
  fun _ _ => assemble_lt _ _ _

theorem dbusConditionalWrite (address : DbusAddr) (data : DbusData) : Statement (.dbusConditionalWrite address data) :=
  fun _ _ => assemble_lt _ _ _

theorem rspSuccess (address : DbusAddr) (data : DbusData) : Statement (.rspSuccess address data) :=
  fun _ _ => response_lt _ _ _

theorem rspNoWrite (address : DbusAddr) (data : DbusData) : Statement (.rspNoWrite address data) :=
  fun _ _ => response_lt _ _ _

theorem rspFailed (address : DbusAddr) (data : DbusData) : Statement (.rspFailed address data) :=
  fun _ _ => response_lt _ _ _

theorem rspBusy (address : DbusAddr) (data : DbusData) : Statement (.rspBusy address data) :=
  fun _ _ => response_lt _ _ _

theorem selectDtminfo : Statement .selectDtminfo := fun p h => by
  simp only [Params.wellFormed, Bool.and_eq_true, decide_eq_true_eq] at h
  exact h.1.1.1.1.2

theorem selectDbus : Statement .selectDbus := fun p h => by
  simp only [Params.wellFormed, Bool.and_eq_true, decide_eq_true_eq] at h
  exact h.1.1.1.2

theorem attach : Statement .attach := fun _ _ => commandWord_lt (by decide) (by decide)

theorem detach : Statement .detach := fun _ _ => commandWord_lt (by decide) (by decide)

theorem readDtmInfo : Statement .readDtmInfo := fun _ _ => commandWord_lt (by decide) (by decide)

theorem scan (op : WireOp) (address : DbusAddr) (dataOut : DbusData) : Statement (.scan op address dataOut) :=
  fun _ _ => commandWord_lt (by decide) (by
    have := op.code_lt; have := address.isLt; have := dataOut.isLt
    rw [Nat.or_assoc, shiftLeft_or_eq_add _ _ 2 (by omega), shiftLeft_or_eq_add _ _ 18 (by omega)]
    omega)

theorem read (address : DbusAddr) : Statement (.read address) :=
  fun _ _ => commandWord_lt (by decide) (by have := address.isLt; omega)

theorem write (address : DbusAddr) (value : DbusData) : Statement (.write address value) :=
  fun _ _ => commandWord_lt (by decide) (by
    have := address.isLt; have := value.isLt
    rw [shiftLeft_or_eq_add _ _ 16 (by omega)]; omega)

theorem readWord (index : Word) : Statement (.readWord index) :=
  fun _ _ => commandWord_lt (by decide) (by have := index.isLt; omega)

theorem writeWord (index value : Word) (setInterrupt : Bool) : Statement (.writeWord index value setInterrupt) :=
  fun _ _ => commandWord_lt (by decide) (by
    have := index.isLt; have := value.isLt; have := setInterrupt.toNat_lt
    rw [Nat.or_assoc, shiftLeft_or_eq_add _ _ 32 (by omega), shiftLeft_or_eq_add _ _ 64 (by omega)]; omega)

theorem verifyWord (index expected : Word) : Statement (.verifyWord index expected) :=
  fun _ _ => commandWord_lt (by decide) (by
    have := index.isLt; have := expected.isLt
    rw [shiftLeft_or_eq_add _ _ 32 (by omega)]; omega)

theorem writeResumeJump (index : Word) (setInterrupt : Bool) : Statement (.writeResumeJump index setInterrupt) :=
  fun _ _ => commandWord_lt (by decide) (by
    have := index.isLt; have := setInterrupt.toNat_lt
    rw [shiftLeft_or_eq_add _ _ 32 (by omega)]; omega)

theorem examine : Statement .examine := fun _ _ => commandWord_lt (by decide) (by decide)

theorem poll : Statement .poll := fun _ _ => commandWord_lt (by decide) (by decide)

theorem halt : Statement .halt := fun _ _ => commandWord_lt (by decide) (by decide)

theorem assertReset : Statement .assertReset := fun _ _ => commandWord_lt (by decide) (by decide)

theorem deassertReset : Statement .deassertReset := fun _ _ => commandWord_lt (by decide) (by decide)

theorem deviceReset : Statement .deviceReset := fun _ _ => commandWord_lt (by decide) (by decide)

theorem jumpWord (imm : BitVec 21) : Statement (.jumpWord imm) := fun _ _ => (jumpBits imm).isLt

end Sys2Proof.Laws.FitsFormat
end

