-- ==== Sys2Proof/Laws/ScanCount.lean ====
section
/-! SUPPORT. Sys2Proof/Laws/ScanCount.lean: how many data scans each shared procedure can drive (spec/42 R157, 70 R278), from every
state and on every answer. -/

namespace Sys2Proof.Machine

theorem shiftCount_append (a b : List PortEvent) : shiftCount (a ++ b) = shiftCount a + shiftCount b := by
  induction a with
  | nil => simp [shiftCount]
  | cons x a ih => cases x <;> simp [shiftCount, ih, Nat.add_right_comm]

/-- From `s` to `t` at most `n` data scans were driven; the parameters, which bound the loops, are the same. -/
structure ScansWithin (n : Nat) (s t : State) : Prop where
  params : t.params = s.params
  trace : ∃ evs, t.portTrace = s.portTrace ++ evs ∧ shiftCount evs ≤ n

namespace ScansWithin

variable {n m : Nat} {s t u : State}

/-- A change that does not touch the ports. -/
theorem quiet (hp : t.params = s.params) (h : t.portTrace = s.portTrace) : ScansWithin n s t :=
  ⟨hp, [], by simp [h], by simp [shiftCount]⟩

theorem refl (s : State) : ScansWithin n s s := quiet rfl rfl

theorem mono (h : ScansWithin n s t) (hn : n ≤ m) : ScansWithin m s t := by
  obtain ⟨hp, evs, he, hc⟩ := h
  exact ⟨hp, evs, he, hc.trans hn⟩

theorem trans (h : ScansWithin n s t) (g : ScansWithin m t u) : ScansWithin (n + m) s u := by
  obtain ⟨hp, a, ha, hca⟩ := h
  obtain ⟨gp, b, hb, hcb⟩ := g
  exact ⟨gp.trans hp, a ++ b, by rw [hb, ha, List.append_assoc], by rw [shiftCount_append]; omega⟩

/-- Quiet changes on either side of a piece of a run. -/
theorem thenQuiet (h : ScansWithin n s t) (hp : u.params = t.params) (ht : u.portTrace = t.portTrace) : ScansWithin n s u :=
  h.trans (quiet (n := 0) hp ht)

theorem afterQuiet (h : ScansWithin n t u) (hp : t.params = s.params) (ht : t.portTrace = s.portTrace) : ScansWithin n s u :=
  ((quiet (n := 0) hp ht).trans h).mono (by omega)

theorem scanned (s : State) (op : WireOp) (a : DbusAddr) (d : DbusData) : ScansWithin 1 s (s.scanned op a d) :=
  ⟨rfl, exchange s op a d s.nextAnswer, by simp, by simp [exchange, shiftCount]⟩

end ScansWithin

/-- A procedure that drives at most `n` data scans, for the parameters of the state it starts in. -/
def Drives {α : Type} (n : Params → Nat) (p : Proc α) : Prop := ∀ s, ScansWithin (n s.params) s (p s).2

namespace Drives

variable {α β : Type} {n m : Params → Nat}

theorem still {p : Proc α} (h : ∀ s, (p s).2 = s) : Drives n p := fun s => by rw [h]; exact .refl s

theorem done (a : α) : Drives n (Machine.done a) := still fun _ => rfl

theorem mono {p : Proc α} (h : Drives n p) (hn : ∀ q, n q ≤ m q) : Drives m p := fun s => (h s).mono (hn _)

theorem andThen {p : Proc α} {f : α → Proc β} (hp : Drives n p) (hf : ∀ a, Drives m (f a)) :
    Drives (fun q => n q + m q) (Machine.andThen p f) := by
  intro s
  rcases andThen_cases p f s with ⟨a, _, h⟩ | h
  · rw [h]
    have g := hf a (p s).2
    rw [(hp s).params] at g
    exact (hp s).trans g
  · rw [h]; exact (hp s).mono (Nat.le_add_right _ _)

/-- A test before a procedure drives nothing. -/
theorem tested {p : Proc α} {f : α → Proc β} (hp : ∀ s, (p s).2 = s) (hf : ∀ a, Drives n (f a)) :
    Drives n (Machine.andThen p f) :=
  (andThen (n := fun _ => 0) (still hp) hf).mono fun _ => by omega

/-- A result handed on after a procedure drives nothing. -/
theorem returning {p : Proc α} {f : α → Proc β} (hp : Drives n p) (hf : ∀ a, Drives (fun _ => 0) (f a)) :
    Drives n (Machine.andThen p f) :=
  (andThen hp hf).mono fun _ => by omega

theorem scan (op : WireOp) (a : DbusAddr) (d : DbusData) : Drives (fun _ => 1) (scanProc op a d) := by
  intro s
  rcases scanProc_cases s op a d with ⟨k, h⟩ | ⟨_, _, h⟩ | ⟨_, _, h⟩ | ⟨_, _, _, _, h⟩ <;> rw [h]
  · exact .refl s
  · exact .quiet rfl rfl
  · exact (ScansWithin.scanned s op a d).thenQuiet rfl rfl
  · exact .scanned s op a d

/-- A response drives at most the scans its loop still allows. -/
theorem respond : ∀ (k : Nat) (c : ResultCode) (d : DbusData) (s : State), ScansWithin k s (Machine.respond k c d s).2
  | k, .success, d, s => by
    rcases h : s.retry with _ | l
    · rw [respond_bare h]; exact .refl s
    · rw [respond_success h]; exact .quiet rfl rfl
  | k, .noWrite, d, s => by
    rcases h : s.retry with _ | l
    · rw [respond_bare h]; exact .refl s
    · rw [respond_noWrite h]; exact .quiet rfl rfl
  | k, .failed, d, s => by
    rcases h : s.retry with _ | l
    · rw [respond_bare h]; exact .refl s
    · rw [respond_failed h]; exact .quiet rfl rfl
  | 0, .busy, d, s => by
    rcases h : s.retry with _ | l
    · rw [respond_bare h]; exact .refl s
    · rw [respond_ceiling h]; exact .quiet rfl rfl
  | k + 1, .busy, d, s => by
    rcases h : s.retry with _ | l
    · rw [respond_bare h]; exact .refl s
    by_cases ht : timedOut s = true
    · rw [respond_timeout h ht]; exact .quiet rfl rfl
    rw [respond_again h (by simpa using ht)]
    have hs : ScansWithin 1 s _ :=
      (scan l.op l.address l.dataOut (s.setRetry (some { l with retries := l.retries + 1 }))).afterQuiet rfl rfl
    split
    · next c d' s1 e => rw [e] at hs; exact (hs.trans (respond k c d' s1)).mono (by omega)
    · next k' s1 e => rw [e] at hs; exact (hs.mono (by omega)).thenQuiet rfl rfl
    · next k' s1 e => rw [e] at hs; exact (hs.mono (by omega)).thenQuiet rfl rfl

/-- A response whatever loop is open: `MAX_RETRIES` scans at most. -/
theorem receive (c : ResultCode) (d : DbusData) : Drives Params.maxRetries (Machine.receive c d) := fun s =>
  (respond (retriesLeft s) c d s).mono (by unfold retriesLeft; split <;> omega)

/-- A loop (R152). -/
theorem scanRetry (op : WireOp) (a : DbusAddr) (d : DbusData) : Drives loopScans (Machine.scanRetry op a d) := by
  intro s
  have hs : ScansWithin 1 s _ := (scan op a d (s.setRetry (some ⟨op, a, d, 0⟩))).afterQuiet rfl rfl
  have hl : 1 ≤ loopScans s.params := by unfold loopScans; omega
  rcases e : scanProc op a d (s.setRetry (some ⟨op, a, d, 0⟩)) with ⟨⟨c, d'⟩ | k | k, s1⟩ <;> rw [e] at hs
  · rw [scanRetry_ok e]
    have g := receive c d' s1
    rw [hs.params] at g
    exact (hs.trans g).mono (by unfold loopScans; omega)
  · rw [scanRetry_err e]; exact (hs.mono hl).thenQuiet rfl rfl
  · rw [scanRetry_refused e]; exact (hs.mono hl).thenQuiet rfl rfl

theorem addressPhase (a : DbusAddr) : Drives loopScans (Machine.addressPhase a) := by
  intro s
  unfold Machine.addressPhase
  split
  · exact .refl s
  · exact returning (scanRetry _ _ _) (fun _ => done ()) s

theorem read (a : DbusAddr) : Drives (fun q => 2 * loopScans q) (readProc a) :=
  (andThen (addressPhase a) fun _ => returning (scanRetry .read 0#16 0#34) fun _ => done _).mono fun _ => by omega

theorem write (a : DbusAddr) (v : DbusData) : Drives loopScans (writeProc a v) :=
  returning (scanRetry _ _ _) fun _ => done _

theorem readWord (i : Word) : Drives (fun q => 2 * loopScans q) (readWordProc i) :=
  tested requireSession_state fun _ => tested (requireIndex_state i) fun _ => returning (read _) fun _ => done _

theorem writeWord (i v : Word) (f : Bool) : Drives loopScans (writeWordProc i v f) :=
  tested requireSession_state fun _ => tested (requireIndex_state i) fun _ => returning (write _ _) fun _ =>
    fun _ => .quiet rfl rfl

theorem verifyWord (i e : Word) : Drives (fun q => 2 * loopScans q) (verifyWordProc i e) := by
  refine returning (readWord i) fun got => ?_
  intro s
  split
  · exact .refl s
  · exact .quiet rfl rfl

theorem writeResumeJump (i : Word) (f : Bool) : Drives loopScans (writeResumeJumpProc i f) :=
  tested requireSession_state fun _ => tested (requireIndex_state i) fun _ s =>
    tested (p := requireJump _) (fun s => by unfold requireJump; split <;> rfl) (fun _ => writeWord _ _ _) s

theorem hookCommand : ∀ c : HookCmd, Drives (fun q => 2 * loopScans q) (Machine.hookCommand c)
  | .scan op a d => (returning (scan op a d) fun _ => done ()).mono fun _ => by unfold loopScans; omega
  | .read a => returning (read a) fun _ => done ()
  | .write a v => (returning (write a v) fun _ => done ()).mono fun _ => by omega
  | .readWord i => returning (readWord i) fun _ => done ()
  | .writeWord i v f => (writeWord i v f).mono fun _ => by omega
  | .verifyWord i e => returning (verifyWord i e) fun _ => done ()
  | .writeResumeJump i f => (writeResumeJump i f).mono fun _ => by omega

/-- A hook drives two loops at most for each command of its script. -/
theorem runHook : ∀ l : List HookStep, Drives (fun q => l.length * (2 * loopScans q)) (Machine.runHook l)
  | [] => done ()
  | x :: rest => fun s => by
    have hs : ScansWithin (2 * loopScans s.params) s _ := hookCommand x.cmd s
    show ScansWithin ((x :: rest).length * (2 * loopScans s.params)) s _
    have hb : (x :: rest).length * (2 * loopScans s.params) =
        2 * loopScans s.params + rest.length * (2 * loopScans s.params) := by
      rw [List.length_cons, Nat.succ_mul, Nat.add_comm]
    have hr := fun s1 (h : ScansWithin (2 * loopScans s.params) s s1) => by
      have g := runHook rest s1
      rw [h.params] at g
      exact hb ▸ h.trans g
    rcases e : Machine.hookCommand x.cmd s with ⟨_ | k | k, s1⟩ <;> rw [e] at hs
    · rw [runHook_ok e]; exact hr s1 hs
    · rw [runHook_err e]; exact hs.mono (by omega)
    · rw [runHook_refused e]; split
      · exact hs.mono (by omega)
      · exact hr s1 hs

/-- A hook call, with the script the state gives it. -/
theorem callHook (h : HookName) (s : State) : ScansWithin (hookScanBound h s) s (Machine.callHook h s).2 := by
  unfold Machine.callHook hookScanBound
  split
  · have g := runHook s.nextHookScript (s.enterHook h)
    have e : ScansWithin 0 s (s.enterHook h) := ⟨rfl, [.hook h], rfl, by simp [shiftCount]⟩
    exact (e.trans g).mono (by simp [State.enterHook])
  · exact .refl s

theorem stageWords : ∀ l : List (Word × Word), Drives (fun q => l.length * (3 * loopScans q)) (Machine.stageWords l)
  | [] => done ()
  | (k, w) :: rest =>
    (andThen (writeWord k w false) fun _ => andThen (verifyWord k w) fun _ => stageWords rest).mono fun q => by
      have e : (rest.length + 1) * (3 * loopScans q) = rest.length * (3 * loopScans q) + 3 * loopScans q := Nat.succ_mul _ _
      rw [List.length_cons, e]; omega

theorem readDtmInfo : Drives (fun _ => 1) readDtmInfoProc := by
  intro s
  have h : ∀ r, ScansWithin 1 s (s.dtmScanned r) := fun r => ⟨rfl, _, rfl, by simp [shiftCount]⟩
  rcases readDtmInfoProc_cases s with ⟨k, e⟩ | ⟨_, e | ⟨n, e⟩ | ⟨w, _, e⟩⟩ <;> rw [e]
  · exact .refl s
  · exact (h .unknown).thenQuiet rfl rfl
  · exact h .dbus
  · exact (h .dbus).thenQuiet rfl rfl

end Drives

end Sys2Proof.Machine
end

