-- ==== Sys2Proof/Tests/Slice0.lean ====
section
/-! SUPPORT. Sys2Proof/Tests/Slice0.lean: the model's own tests: ill-formed terms refused, words written out from the spec's encodings,
single steps on the spec's vectors (95_test_vectors.md), and for each obligation a state and operands that meet its hypotheses. -/

namespace Sys2Proof.Tests

open Sys2Proof.Machine

set_option Elab.async false

/-! ### States and answers the tests use -/

/-- The default parameters with a stated `MAX_RETRIES`, as the vectors have it. -/
def params3 : Params := { defaultParams with maxRetries := 3 }

/-- After `attach()`, nothing known yet (P3's start). -/
def boot : State := { State.reset with params := params3, attached := true }

/-- The geometry known, cold cache (P1's start). -/
def ready : State := { boot with addressBits := 5#8, irSelect := .dbus }

/-- A Debug RAM of 18 words on a bus of 7 address bits (section 2.5). -/
def withRam : State := { ready with addressBits := 7#8, scratchSize := 18#32 }

/-- The cache showing register 0 with a pending read (P3's end). -/
def warm : State := { ready with lastAddress := some 0#16, lastOp := .read }

/-- The cache as `halt` leaves it, the target running (P4, before scan 4). -/
def staged : State := { ready with lastAddress := some 1#16, lastOp := .write, lifecycle := .running }

/-- A response with the given result and data. -/
def rsp (c : ResultCode) (d : DbusData) : Answer := .ok (response c 0#16 d) false

def ok0 : Answer := rsp .success 0#34
def busy0 : Answer := rsp .busy 0#34

/-- The state a step ends in; `s` itself where it does not end in one. -/
def after (i : Instr) (s : State) : State :=
  match exec i s with
  | .next t => t
  | .fault _ => s
  | .refused _ => s

/-- Every instruction ends in a next state, so `after` is what `exec` answers. -/
theorem exec_after (i : Instr) (s : State) : exec i s = .next (after i s) := by
  obtain ⟨t, h, _⟩ := exec_shape i s
  rw [after, h]

/-! ### Well-formedness: an ill-formed term for each check, refused -/

/-- The one check on an instruction: bit 0 of a jump offset "is not encoded" (R103). -/
theorem test_odd_jump_is_ill_formed : (Instr.jumpWord 0x401#21).wellFormed = false := by decide

/-- The checks on the parameters (D4, R7, R100), each broken alone. -/
theorem test_ill_formed_params :
    { defaultParams with irDbus := 0x10 }.wellFormed = false ∧
    { defaultParams with irDtminfo := 32 }.wellFormed = false ∧
    { defaultParams with irDbus := 32 }.wellFormed = false ∧
    { defaultParams with dtminfoAddrbitsWidth := 29 }.wellFormed = false ∧
    { defaultParams with infoSizeLsb := 29 }.wellFormed = false ∧
    { defaultParams with infoAuthLsb := 33 }.wellFormed = false := by decide

theorem test_default_params_well_formed : defaultParams.wellFormed = true := by decide

/-! ### Decoding: each constructor's word, written out from its encoding -/

/-- Requests: V30-1, V30-2 and, at the greatest width, R95's 52 bits. -/
theorem test_decode_requests :
    decode params3 ⟨.dbusReq, 0x00000000000⟩ = .ok (.dbusNop 0#16 0#34) ∧
    decode params3 ⟨.dbusReq, 0x7F000000001⟩ = .ok (.dbusRead 0x7F#16 0#34) ∧
    decode params3 ⟨.dbusReq, 0x4177AB6FBBE⟩ = .ok (.dbusWrite 0x41#16 0x1DEADBEEF#34) ∧
    decode params3 ⟨.dbusReq, 0x1FFFFFFFFFF⟩ = .ok (.dbusConditionalWrite 0x1F#16 0x3FFFFFFFF#34) ∧
    decode params3 ⟨.dbusReq, 0x10000000000000⟩ = .error (.strayBits .dbusReq) := by decide

/-- Responses: V30-4. -/
theorem test_decode_responses :
    decode params3 ⟨.dbusRsp, 0x00400000000⟩ = .ok (.rspSuccess 0#16 0x100000000#34) ∧
    decode params3 ⟨.dbusRsp, 0x00800000001⟩ = .ok (.rspNoWrite 0#16 0x200000000#34) ∧
    decode params3 ⟨.dbusRsp, 0x1F000000002⟩ = .ok (.rspFailed 0x1F#16 0#34) ∧
    decode params3 ⟨.dbusRsp, 0x00C00000003⟩ = .ok (.rspBusy 0#16 0x300000000#34) ∧
    decode params3 ⟨.dbusRsp, 0x10000000000000⟩ = .error (.strayBits .dbusRsp) := by decide

/-- Selectors: R91, the two defaults of R7, and a value that is neither (R106). -/
theorem test_decode_selectors :
    decode params3 ⟨.irsel, 0b10000⟩ = .ok .selectDtminfo ∧ decode params3 ⟨.irsel, 0b10001⟩ = .ok .selectDbus ∧
    decode params3 ⟨.irsel, 0b11111⟩ = .error (.unknownSelector 31) := by decide

/-- Commands without operands: the codes of R105. -/
theorem test_decode_plain_commands :
    decode params3 ⟨.cmd, 0b00000⟩ = .ok .attach ∧ decode params3 ⟨.cmd, 0b00001⟩ = .ok .detach ∧
    decode params3 ⟨.cmd, 0b00010⟩ = .ok .readDtmInfo ∧ decode params3 ⟨.cmd, 0b01010⟩ = .ok .examine ∧
    decode params3 ⟨.cmd, 0b01011⟩ = .ok .poll ∧ decode params3 ⟨.cmd, 0b01100⟩ = .ok .halt ∧
    decode params3 ⟨.cmd, 0b01101⟩ = .ok .assertReset ∧ decode params3 ⟨.cmd, 0b01110⟩ = .ok .deassertReset ∧
    decode params3 ⟨.cmd, 0b01111⟩ = .ok .deviceReset := by decide

/-- Commands with operands: the codes of R105; the operands' places are the model's (log 12). -/
theorem test_decode_operand_commands :
    decode params3 ⟨.cmd, 3 + 2 ^ 5 * (1 + 2 ^ 2 * 0x11 + 2 ^ 18 * 7)⟩ = .ok (.scan .read 0x11#16 7#34) ∧
    decode params3 ⟨.cmd, 4 + 2 ^ 5 * 0x11⟩ = .ok (.read 0x11#16) ∧
    decode params3 ⟨.cmd, 5 + 2 ^ 5 * (0x10 + 2 ^ 16 * 0x1234)⟩ = .ok (.write 0x10#16 0x1234#34) ∧
    decode params3 ⟨.cmd, 6 + 2 ^ 5 * 17⟩ = .ok (.readWord 17#32) ∧
    decode params3 ⟨.cmd, 7 + 2 ^ 5 * (17 + 2 ^ 32 * 0xDEADBEEF + 2 ^ 64)⟩ = .ok (.writeWord 17#32 0xDEADBEEF#32 true) ∧
    decode params3 ⟨.cmd, 8 + 2 ^ 5 * (17 + 2 ^ 32 * 0xDEADBEEF)⟩ = .ok (.verifyWord 17#32 0xDEADBEEF#32) ∧
    decode params3 ⟨.cmd, 9 + 2 ^ 5 * (17 + 2 ^ 32)⟩ = .ok (.writeResumeJump 17#32 true) ∧
    decode params3 ⟨.cmd, 0b00100 + 2 ^ 21⟩ = .error (.strayBits .cmd) := by decide

/-- Jump words: V30-8, with offsets 0x400, -4, 2^20 - 2 and -2^20; a word that is none. -/
theorem test_decode_jump_words :
    decode params3 ⟨.jump, 0x4000006F⟩ = .ok (.jumpWord 0x400#21) ∧
    decode params3 ⟨.jump, 0xFFDFF06F⟩ = .ok (.jumpWord (BitVec.ofInt 21 (-4))) ∧
    decode params3 ⟨.jump, 0x7FFFF06F⟩ = .ok (.jumpWord 0xFFFFE#21) ∧
    decode params3 ⟨.jump, 0x8000006F⟩ = .ok (.jumpWord 0x100000#21) ∧
    decode params3 ⟨.jump, 0x000000EF⟩ = .error (.notJump 0xEF) := by decide

/-- Encoding, against the words of V30-1, V30-4 and V30-8. -/
theorem test_encode_words :
    encode params3 (.dbusWrite 0x10#16 0x1234#34) = ⟨.dbusReq, 0x100000048D2⟩ ∧
    encode params3 (.rspBusy 0#16 0x300000000#34) = ⟨.dbusRsp, 0x00C00000003⟩ ∧
    encode params3 .selectDbus = ⟨.irsel, 0b10001⟩ ∧ encode params3 .halt = ⟨.cmd, 12⟩ ∧
    encode params3 (.jumpWord (BitVec.ofInt 21 (-2048))) = ⟨.jump, 0x801FF06F⟩ := by decide

/-- A word of the opcode table, fetched and run from reset: `attach` (code 0) and a READ request. -/
theorem test_table_words :
    decodeTableWord 8 0 = some .attach ∧ decodeTableWord 48 0x11000000001 = some (.dbusRead 0x11#16 0#34) ∧
    decodeTableWord 8 0b10000 = some .selectDtminfo ∧ decodeTableWord 32 0x6F = some (.jumpWord 0#21) := by decide

theorem test_attach_is_first_step : ∃ t, step (State.reset.withFetchWord 8 0) = .next t ∧ t.attached = true :=
  ⟨_, rfl, rfl⟩

/-! ### Operand forms and flags -/

/-- T1: the mapper at the edges of its two ranges. -/
theorem test_map : mapIndex 15 = 0x0F ∧ mapIndex 16 = 0x40 ∧ mapIndex 17 = 0x41 ∧ mapIndex 63 = 0x6F := by decide

/-- V30-5: the data of a Debug RAM write. -/
theorem test_wdata : wdata 0#32 true = 0x300000000#34 ∧ wdata 0xDEADBEEF#32 false = 0x1DEADBEEF#34 := by decide

/-- V30-6: the size and authentication fields. -/
theorem test_info_fields :
    infoScratchSize defaultParams 0x4400#64 = 18#32 ∧ infoAuthType defaultParams 0x4404#64 = 1#2 ∧
    infoScratchSize defaultParams 0xFC00#64 = 64#32 ∧ infoScratchSize defaultParams 0#64 = 1#32 ∧
    infoAuthType defaultParams 0x3FFFFFFFF#64 = 3#2 := by decide

/-- V30-7: the address-bit count. -/
theorem test_dtm_fields :
    dtmAddressBits defaultParams 0x51 = 5 ∧ dtmAddressBits defaultParams 0x01 = 0 ∧
    dtmAddressBits defaultParams 0xFFFFFFFF = 15 := by decide

/-- V30-8: the legal jump offsets at their edges. -/
theorem test_jump_range :
    jumpOffsetLegal (2 ^ 20 - 2) = true ∧ jumpOffsetLegal (-(2 ^ 20)) = true ∧ jumpOffsetLegal (2 ^ 20) = false ∧
    jumpOffsetLegal (-(2 ^ 20) - 2) = false ∧ jumpOffsetLegal 1 = false := by decide

/-- V44-6: the address `poll` reads. -/
theorem test_poll_address :
    pollAddress boot = 0#16 ∧ pollAddress { boot with lastAddress := some 0x10#16 } = 0x10#16 ∧
    pollAddress { boot with lastAddress := some 0x11#16 } = 0#16 ∧
    pollAddress { boot with lastAddress := some 0x0F#16 } = 0x0F#16 := by decide

/-! ### Single steps on the spec's vectors -/

/-- T2, third row: CONDITIONAL_WRITE answered NO_WRITE is returned as it is, and the cache shows it. -/
theorem test_scan_no_write :
    (after (.scan .conditionalWrite 0x02#16 5#34) { ready with answers := [rsp .noWrite 0#34] }).result =
      some (.ok (.scanned .noWrite 0#34)) ∧
    (after (.scan .conditionalWrite 0x02#16 5#34) { ready with answers := [rsp .noWrite 0#34] }).lastOp =
      .conditionalWrite := by decide +kernel

/-- T2, fourth row: NOP sets the cache's operation to None. -/
theorem test_nop_cache :
    (after (.dbusNop 0#16 0#34) { ready with answers := [ok0], lastOp := .write }).lastOp = .none := by decide +kernel

/-- V60-1 and V60-2: the order of the tests of a scan. -/
theorem test_scan_test_order :
    (after (.scan .read 0x20#16 0#34) State.reset).result = some (.refused .notAttached) ∧
    (after (.scan .read 0x20#16 0#34) boot).result = some (.err .assertAddressBits) ∧
    (after (.scan .read 0x20#16 0#34) ready).result = some (.refused (.addressRange 0x20#16)) := by decide +kernel

/-- P1: the identical WRITE four times, and no other scan. -/
theorem test_write_back_pressure :
    shiftsOf (after (.write 0x10#16 0x1234#34) { ready with answers := [busy0, busy0, busy0, ok0] }).portTrace =
      [(41, 0x100000048D2), (41, 0x100000048D2), (41, 0x100000048D2), (41, 0x100000048D2)] := by decide +kernel

/-- P1 with `MAX_RETRIES` = 2: it stops after the third scan. -/
theorem test_write_gives_up :
    (after (.write 0x10#16 0x1234#34)
      { ready with params := { params3 with maxRetries := 2 }, answers := [busy0, busy0, busy0, ok0] }).fault =
      some (.deviceUnresponsive .write 0x10#16) := by decide +kernel

/-- P2, scans 1 and 2: a read miss returns the data of the second response. -/
theorem test_read_miss :
    (after (.read 0x11#16) { ready with answers := [ok0, .ok 0x00000011000 false] }).result =
      some (.ok (.data 0x4400#64)) ∧
    shiftsOf (after (.read 0x11#16) { ready with answers := [ok0, .ok 0x00000011000 false] }).portTrace =
      [(41, 0x11000000001), (41, 0x00000000001)] := by decide +kernel

/-- V42-14: FAILED in the address phase is logged, and the read goes on. -/
theorem test_read_failed_phase :
    (after (.read 0x11#16) { ready with answers := [rsp .failed 0#34, ok0] }).log = [.resultFailed .read 0x11#16] := by
  decide +kernel

/-- V40-1: the four calls on the scan port and the stored width. -/
theorem test_read_dtm_info :
    (after .readDtmInfo { boot with answers := [.ok 0x51 false] }).addressBits = 5#8 ∧
    (after .readDtmInfo { boot with answers := [.ok 0x51 false] }).portTrace =
      [.select .dtminfo, .shift 32 0, .select .dbus, .flush (.ok 0x51 false)] := by decide +kernel

/-- V40-2: the flush fails. -/
theorem test_read_dtm_info_fails :
    (after .readDtmInfo { boot with answers := [.err] }).fault = some .transportError ∧
    (after .readDtmInfo { boot with answers := [.err] }).irSelect = .unknown := by decide +kernel

/-- V43-1: the scan of a Debug RAM write and its mirror word. -/
theorem test_write_word :
    shiftsOf (after (.writeWord 17#32 0xDEADBEEF#32 false) { withRam with answers := [ok0] }).portTrace =
      [(43, 0x4177AB6FBBE)] ∧
    (after (.writeWord 17#32 0xDEADBEEF#32 false) { withRam with answers := [ok0] }).readMirror 17 =
      .ok 0xDEADBEEF#32 := by decide +kernel

/-- V43-3: a write answered NO_WRITE leaves the mirror word invalid, and the verify logs the mismatch. -/
theorem test_verify_mismatch :
    (after (.verifyWord 17#32 0xDEADBEEF#32) { withRam with answers := [ok0, ok0] }).log =
      [.verifyMismatch 17#32 0xDEADBEEF#32 0#32] ∧
    (after (.writeWord 17#32 0xDEADBEEF#32 false) { withRam with answers := [rsp .noWrite 0#34] }).readMirror 17 =
      .error (.mirrorWordHoldsNoValue 17) := by decide +kernel

/-- V43-4: the staged resume jump. -/
theorem test_write_resume_jump :
    shiftsOf (after (.writeResumeJump 17#32 true) { withRam with answers := [ok0] }).portTrace =
      [(43, 0x41CC00001BE)] := by decide +kernel

/-- V43-5: a Debug RAM read drops bits 33 and 32. -/
theorem test_read_word :
    (after (.readWord 17#32) { withRam with answers := [ok0, rsp .success 0x3DEADBEEF#34] }).result =
      some (.ok (.word 0xDEADBEEF#32)) := by decide +kernel

/-- V43-6: the index check and then the address check. -/
theorem test_index_then_address :
    (after (.writeWord 18#32 1#32 false) { withRam with addressBits := 5#8 }).result =
      some (.refused (.indexRange 18#32)) ∧
    (after (.writeWord 17#32 1#32 false) { withRam with addressBits := 5#8 }).result =
      some (.refused (.addressRange 0x41#16)) := by decide +kernel

/-- V43-7: an offset out of range. -/
theorem test_jump_refused :
    (after (.writeResumeJump 0#32 false)
      { withRam with params := { params3 with resumeVector := 0x200400#32 } }).result =
      some (.refused (.jumpRange (2 ^ 21))) := by decide +kernel

/-- P3: the answers to its 21 scans, as the table has them. -/
def p3Answers : List Answer :=
  [0x51, 0, 0x00000011000, 0, 0, 0x003FFC1124C, 0x003FFC1124C, 0x003FFC1124C, 0x00007D3524C, 0x003FFC1124C,
    0x003FFC1124C, 0x0010240808C, 0x003FFC1124C, 0x003FFC1124C, 0x00007D3524C, 0x003FFC1124C, 0x003FFC1124C,
    0x0010240888C, 0x003FFC1124C, 0x003FFC1124C, 0x000FC0001BC].map (Answer.ok · false)

/-- P3: every scan of `examine`. -/
theorem test_examine_scans :
    shiftsOf (after .examine { boot with answers := p3Answers }).portTrace =
      [(32, 0), (41, 0x11000000001), (41, 0x00000000001), (41, 0x007FFC1124E), (41, 0x00000000001), (41, 0x00000000001),
        (41, 0x01407D3524E), (41, 0x01000000001), (41, 0x00000000001), (41, 0x0250240808E), (41, 0x02000000001),
        (41, 0x00000000001), (41, 0x03407D3524E), (41, 0x03000000001), (41, 0x00000000001), (41, 0x0450240888E),
        (41, 0x04000000001), (41, 0x00000000001), (41, 0x054FC0001BE), (41, 0x05000000001), (41, 0x00000000001)] := by
  decide +kernel

/-- P3: the end state; all six words valid, nothing logged. -/
theorem test_examine_end :
    (after .examine { boot with answers := p3Answers }).scratchSize = 18#32 ∧
    (after .examine { boot with answers := p3Answers }).examined = true ∧
    (after .examine { boot with answers := p3Answers }).lifecycle = .unexamined ∧
    (after .examine { boot with answers := p3Answers }).log = [] ∧
    (after .examine { boot with answers := p3Answers }).scratchValidMask.take 7 =
      [true, true, true, true, true, true, false] := by decide +kernel

/-- V44-5: every verify read returns 0. -/
theorem test_examine_mismatch :
    (after .examine { boot with answers := .ok 0x51 false :: ok0 :: .ok 0x00000011000 false :: List.replicate 18 ok0 }).log =
      [.verifyMismatch 0#32 0xFFF04493#32 0#32, .verifyMismatch 1#32 params3.probe.w1 0#32,
        .verifyMismatch 2#32 params3.probe.w2 0#32, .verifyMismatch 3#32 params3.probe.w3 0#32,
        .verifyMismatch 4#32 params3.probe.w4 0#32, .verifyMismatch 5#32 0x3F00006F#32 0#32] ∧
    (after .examine { boot with
      answers := .ok 0x51 false :: ok0 :: .ok 0x00000011000 false :: List.replicate 18 ok0 }).scratchValidMask.take 6 =
      [false, false, false, false, false, false] := by decide +kernel

/-- P4, scan 7: a poll that hits and finds the core halted. -/
theorem test_poll_halted :
    (after .poll { warm with answers := [.ok 0x005EC1181CC false] }).lifecycle = .halted := by decide +kernel

/-- P4, scans 4 and 5: a poll that misses; halt-acknowledged clear and interrupt set change nothing. -/
theorem test_poll_unchanged :
    (after .poll { staged with
      answers := [.ok 0x003FFC1124C false, .ok 0x009000001BC false] }).lifecycle = .running := by decide +kernel

/-- P4, scans 2 and 3: the two writes of `halt`. -/
theorem test_halt :
    shiftsOf (after .halt { ready with scratchSize := 18#32, answers := [ok0, ok0] }).portTrace =
      [(41, 0x005EC1181CE), (41, 0x01D000001BE)] := by decide +kernel

/-- V44-8: `halt` before `examine`. -/
theorem test_halt_refused : (after .halt ready).result = some (.refused (.indexRange 0#32)) := by decide +kernel

/-- V44-9: the reset placeholders. -/
theorem test_placeholders :
    after .assertReset boot = { boot with result := some (.ok .unit) } ∧
    after .deassertReset boot = { boot with result := some (.ok .unit) } := by decide +kernel

/-- V44-10: what a device reset invalidates and what it keeps. -/
theorem test_device_reset :
    (after .deviceReset { withRam with lifecycle := .halted, scratchValidMask := List.replicate 64 true }).scratchValidMask =
      List.replicate 64 false ∧
    (after .deviceReset { withRam with lifecycle := .halted }).lifecycle = .unexamined ∧
    (after .deviceReset { withRam with examined := true }).examined = true := by decide +kernel

/-- R102: a jump of -4 from 0x404. -/
theorem test_jump_word :
    (after (.jumpWord (BitVec.ofInt 21 (-4))) { boot with corePc := 0x404#32 }).corePc = 0x400#32 := by decide +kernel

/-- V60-3: `attach` clears a fault. -/
theorem test_attach_clears_fault :
    (after .attach { ready with fault := some .transportError }).fault = none ∧
    (after .detach ready).attached = false := by decide +kernel

/-- R120, R121: a selector is queued. -/
theorem test_selectors_queue :
    (after .selectDtminfo boot).scanQueue = [.select .dtminfo] ∧
    (after .selectDbus boot).scanQueue = [.select .dbus] := by decide +kernel

/-- R137: NO_WRITE in an open loop is logged with the loop's request. -/
theorem test_no_write_in_loop :
    (after (.rspNoWrite 0#16 0#34) { ready with retry := some ⟨.write, 0x10#16, 0#34, 0⟩ }).log =
      [.resultNoWrite .write 0x10#16] := by decide +kernel

/-! ### Witnesses: for each obligation with hypotheses, a case that meets them all -/

theorem witness_DecodeEncodeRoundTrip :
    defaultParams.wellFormed = true ∧ (Instr.jumpWord 0x100000#21).wellFormed = true := by decide

theorem witness_EncodeDecodeRoundTrip : decode params3 ⟨.cmd, 4 + 2 ^ 5 * 0xFFFF⟩ = .ok (.read 0xFFFF#16) := by decide

/-- The greatest address of 5 bits, and of the full 16. -/
theorem witness_RequestVectorLayout : (0x1F#16).toNat < 2 ^ 5 ∧ (0xFFFF#16).toNat < 2 ^ 16 := by decide

/-- The first and the last unassigned code. -/
theorem witness_UnassignedCommandIsUndecodable :
    ({ boot with commands := [⟨.cmd, 16⟩] }.commands = ⟨.cmd, 16⟩ :: [] ∧ 16 ≤ 16 % 32) ∧
    ({ boot with commands := [⟨.cmd, 31⟩] }.commands = ⟨.cmd, 31⟩ :: [] ∧ 16 ≤ 31 % 32) := by decide

theorem witness_StepRunsDecodedInstruction :
    { boot with commands := [⟨.cmd, 11⟩] }.commands = ⟨.cmd, 11⟩ :: [] ∧
    decode { boot with commands := [⟨.cmd, 11⟩] }.params ⟨.cmd, 11⟩ = .ok .poll := by decide

theorem witness_IdleStepChangesNothing : boot.commands = [] := by decide

theorem witness_DetachedBlockRefuses :
    gated (.dbusRead 0x20#16 0#34) = true ∧ State.reset.retry = none ∧ State.reset.attached = false := by decide

theorem witness_FailedSessionRefuses :
    gated .examine = true ∧ { boot with fault := some .transportError }.retry = none ∧
    { boot with fault := some .transportError }.attached = true ∧
    { boot with fault := some .transportError }.fault = some .transportError := by decide

theorem witness_FirstFatalKindIsSticky :
    ∃ t, { boot with fault := some FatalKind.scratchSizeZero }.fault = some .scratchSizeZero ∧
      exec .poll { boot with fault := some FatalKind.scratchSizeZero } = .next t := ⟨_, rfl, rfl⟩

/-- The greatest address of the bus, answered. -/
theorem witness_ScanDeliversResponse :
    BusReady { ready with answers := [ok0] } 0x1F#16 ∧
    { ready with answers := [ok0] }.answers = .ok (response .success 0#16 0#34) false :: [] := by decide

theorem witness_RequestRowsScan :
    BusReady { ready with answers := [.ok 3 true] } 0#16 ∧
    { ready with answers := [.ok 3 true] }.answers = .ok 3 true :: [] := by decide

/-- `scan` and the request row alike. -/
theorem witness_ScanTransportError :
    Instr.scan .write 0x10#16 0#34 ∈ [Instr.scan .write 0x10#16 0#34, requestInstr .write 0x10#16 0#34] ∧
    Instr.dbusWrite 0x10#16 0#34 ∈ [Instr.scan .write 0x10#16 0#34, requestInstr .write 0x10#16 0#34] ∧
    BusReady { ready with answers := [.err, ok0] } 0x10#16 ∧ { ready with answers := [.err, ok0] }.answers = .err :: [ok0] := by
  decide

/-- A block with its hooks present, whose next hook calls do nothing. -/
def hooked : State :=
  { withRam with
    params := { params3 with onResetHook := true, preHaltHook := true, postResetHook := true }
    hookScripts := [[], []] }

/-- A session whose geometry was lost to a second `read_dtm_info` (R123), its Debug RAM known; and the same with hooks. -/
def lost : State := { withRam with addressBits := 0#8 }

def lostHooked : State := { hooked with addressBits := 0#8 }

/-- A cache that shows a low register the bus no longer reaches. -/
def narrow : State := { withRam with addressBits := 2#8, lastAddress := some 5#16, lastOp := .write }

/-- A block with the optional time configured, and a BUSY that comes when it has run out. -/
def timed : State := { withRam with params := { params3 with opTimeout := some 1 } }

def lateBusy : Answer := .ok (response .busy 0#16 0#34) true

/-- Without the geometry: `scan`, a read and a write of the last slot, `poll`, `halt` with its hook; and `examine` of a DTM that reports
width 0. -/
theorem witness_ScanBeforeGeometryAsserts :
    SessionOpen lost ∧ lost.retry = none ∧ lost.addressBits = 0#8 ∧
    Instr.scan .read 0x20#16 0#34 ∈ [Instr.scan .read 0x20#16 0#34, requestInstr .read 0x20#16 0#34] ∧
    ComesToRead lost (.verifyWord 17#32 0#32) lost (slotAddress 17#32) ∧ ComesToRead lost .poll lost (pollAddress lost) ∧
    ComesToWrite lost (.writeResumeJump 17#32 true) lost (slotAddress 17#32) (wdata (resumeJumpWord params3 17#32) true) ∧
    (∃ s1, ComesToWrite lostHooked .halt s1 0#16 (wdata params3.haltInsn false) ∧ SessionOpen lostHooked ∧ SessionOpen s1 ∧
      s1.retry = none ∧ s1.addressBits = 0#8) ∧
    (SessionOpen boot ∧ boot.examined = false ∧ { boot with answers := [.ok 0x01 false] }.answers = .ok 0x01 false :: [] ∧
      dtmAddressBits boot.params (0x01 % 2 ^ 32) = 0) :=
  ⟨by decide, rfl, rfl, by decide, .verifyWord _ _ (by decide), .poll, .writeResumeJump _ _ (by decide) (by decide),
    ⟨_, .halt _ (by decide) (.inr ⟨by decide, rfl⟩), by decide, by decide, rfl, rfl⟩, by decide⟩

/-- The first address a bus of 5 bits cannot carry. -/
theorem witness_AddressOutOfRangeRefused :
    Instr.scan .read 0x20#16 0#34 ∈ [Instr.scan .read 0x20#16 0#34, requestInstr .read 0x20#16 0#34] ∧
    ComesToWrite ready (.write 0x20#16 0#34) ready 0x20#16 0#34 ∧ ComesToRead ready (.read 0x20#16) ready 0x20#16 ∧
    cacheHit ready 0x20#16 = false ∧ SessionOpen ready ∧ ready.retry = none ∧ ready.addressBits ≠ 0#8 ∧
    2 ^ ready.addressBits.toNat ≤ (0x20#16).toNat :=
  ⟨by decide, .write _ _, .read _, by decide, by decide, rfl, by decide, by decide⟩

/-- Slot 17 and `poll` at register 5, on a bus of two bits. -/
theorem witness_AddressOutOfRangeRefused_slot :
    ComesToWrite narrow (.writeResumeJump 17#32 true) narrow (slotAddress 17#32)
      (wdata (resumeJumpWord params3 17#32) true) ∧
    2 ^ narrow.addressBits.toNat ≤ (slotAddress 17#32).toNat ∧
    ComesToRead narrow .poll narrow (pollAddress narrow) ∧ pollAddress narrow = 5#16 ∧ cacheHit narrow 5#16 = false ∧
    2 ^ narrow.addressBits.toNat ≤ (5#16).toNat ∧ SessionOpen narrow ∧ narrow.retry = none :=
  ⟨.writeResumeJump _ _ (by decide) (by decide), by decide, .poll, by decide, by decide, by decide, by decide, rfl⟩

theorem witness_ScanIgnoresResponseAddress :
    0x1F000000002 % 2 ^ 36 = 0x00000000002 % 2 ^ 36 ∧ BusReady ready 0x11#16 ∧
    ∃ t t', exec (.scan .read 0x11#16 0#34) { ready with answers := .ok 0x1F000000002 false :: [] } = .next t ∧
      exec (.scan .read 0x11#16 0#34) { ready with answers := .ok 0x00000000002 false :: [] } = .next t' :=
  ⟨by decide, by decide, _, _, rfl, rfl⟩

theorem witness_CacheTracksEveryScan :
    ∃ t, exec (.write 0x10#16 0#34) { ready with answers := [ok0] } = .next t := ⟨_, exec_after _ _⟩

theorem witness_DbusScansNeedGeometry :
    ∃ t, exec .readDtmInfo { boot with answers := [.ok 0x51 false] } = .next t := ⟨_, rfl⟩

/-- P1, and the terminal NO_WRITE of V42-15. -/
theorem witness_WriteRetriesUntilAccepted :
    BusReady ready 0x10#16 ∧ (∀ b ∈ [busy0, busy0, busy0], BusyAnswer ready b) ∧
    [busy0, busy0, busy0].length ≤ ready.params.maxRetries ∧ FinalAnswer ready ok0 ∧
    FinalAnswer ready (rsp .noWrite 0#34) ∧
    { ready with answers := [busy0, busy0, busy0, ok0] }.answers = [busy0, busy0, busy0] ++ ok0 :: [] := by decide

/-- At the ceiling, and before it when the time has run out; a word written, `halt` behind its hook, a word read and `poll`. -/
theorem witness_BusyToTheCeilingIsFatal :
    (SessionOpen withRam ∧ BusReady withRam (slotAddress 17#32) ∧ GivesUp withRam [busy0, busy0, busy0] busy0 ∧
      ComesToWrite withRam (.writeWord 17#32 0#32 true) withRam (slotAddress 17#32) (wdata 0#32 true) ∧
      ComesToRead withRam (.readWord 17#32) withRam (slotAddress 17#32) ∧ cacheHit withRam (slotAddress 17#32) = false ∧
      { withRam with answers := [busy0, busy0, busy0, busy0] }.answers = [busy0, busy0, busy0] ++ busy0 :: []) ∧
    (BusReady timed 0#16 ∧ GivesUp timed [busy0] lateBusy ∧ ComesToRead timed .poll timed (pollAddress timed) ∧
      pollAddress timed = 0#16 ∧ cacheHit timed 0#16 = false) ∧
    ∃ s1, ComesToWrite hooked .halt s1 0#16 (wdata params3.haltInsn false) ∧ BusReady s1 0#16 ∧
      GivesUp s1 [busy0, busy0, busy0] busy0 :=
  ⟨⟨by decide, by decide, by decide, .writeWord _ _ _ (by decide), .readWord _ (by decide), by decide, by decide⟩,
    ⟨by decide, by decide, .poll, by decide, by decide⟩,
    _, .halt _ (by decide) (.inr ⟨by decide, rfl⟩), by decide, by decide⟩

/-- A loop's answers, for the witnesses of the reads: two BUSY and a SUCCESS. -/
theorem loop_ready : LoopAnswers ready [busy0, busy0, ok0] :=
  ⟨[busy0, busy0], ok0, rfl, by decide, by decide, by decide⟩

/-- A miss and a hit. -/
theorem witness_ReadRunsItsPhases :
    (SessionOpen ready ∧ ready.addressBits ≠ 0#8 ∧ AddressPhaseAnswers ready 0x11#16 [busy0, busy0, ok0] ∧
      (∀ b ∈ [busy0], BusyAnswer ready b) ∧ [busy0].length ≤ ready.params.maxRetries ∧ FinalAnswer ready ok0 ∧
      { ready with answers := [busy0, busy0, ok0, busy0, ok0] }.answers = [busy0, busy0, ok0] ++ ([busy0] ++ ok0 :: [])) ∧
    (SessionOpen warm ∧ warm.addressBits ≠ 0#8 ∧ AddressPhaseAnswers warm 0#16 [] ∧ FinalAnswer warm ok0) :=
  ⟨⟨by decide, by decide, .inr ⟨by decide, by decide, loop_ready⟩, by decide, by decide, by decide, by decide⟩,
    by decide, by decide, .inl ⟨by decide, rfl⟩, by decide⟩

/-- The data phase alone, on a hit; and after an address phase, past the optional time. -/
theorem witness_BusyDataPhaseIsFatal :
    (ComesToRead warm .poll warm (pollAddress warm) ∧ pollAddress warm = 0#16 ∧ SessionOpen warm ∧ warm.addressBits ≠ 0#8 ∧
      AddressPhaseAnswers warm 0#16 [] ∧ GivesUp warm [busy0, busy0, busy0] busy0) ∧
    (ComesToRead timed (.verifyWord 17#32 1#32) timed (slotAddress 17#32) ∧ AddressPhaseAnswers timed (slotAddress 17#32) [ok0] ∧
      GivesUp timed [busy0] lateBusy) :=
  ⟨⟨.poll, by decide, by decide, by decide, .inl ⟨by decide, rfl⟩, by decide⟩,
    .verifyWord _ _ (by decide), .inr ⟨by decide, by decide, [], ok0, rfl, by decide, by decide, by decide⟩, by decide⟩

/-- A word written and `poll`, in its address phase and, as in V42-17, in its data phase; the data phase of a hit. -/
theorem witness_TransportErrorShortCircuits :
    (SessionOpen withRam ∧ BusReady withRam (slotAddress 17#32) ∧ (∀ b ∈ [busy0], BusyAnswer withRam b) ∧
      [busy0].length ≤ withRam.params.maxRetries ∧
      ComesToWrite withRam (.writeWord 17#32 0#32 true) withRam (slotAddress 17#32) (wdata 0#32 true) ∧
      BusReady withRam (pollAddress withRam) ∧ ComesToRead withRam .poll withRam (pollAddress withRam) ∧
      cacheHit withRam (pollAddress withRam) = false ∧
      { withRam with answers := [busy0, .err] }.answers = [busy0] ++ .err :: []) ∧
    (ComesToRead ready (.read 0x11#16) ready 0x11#16 ∧ SessionOpen ready ∧ ready.addressBits ≠ 0#8 ∧
      AddressPhaseAnswers ready 0x11#16 [ok0] ∧ { ready with answers := [ok0, .err] }.answers = [ok0] ++ ([] ++ .err :: [])) ∧
    AddressPhaseAnswers warm (pollAddress warm) [] :=
  ⟨⟨by decide, by decide, by decide, by decide, .writeWord _ _ _ (by decide), by decide, .poll, by decide, by decide⟩,
    ⟨.read _, by decide, by decide, .inr ⟨by decide, by decide, [], ok0, rfl, by decide, by decide, by decide⟩, by decide⟩,
    .inl ⟨by decide, rfl⟩⟩

/-! `examine` and `halt` in the middle of their staging, for the statements on the parts of a command -/

/-- P3's first three answers, the geometry and the info register, and then these. -/
def booting (more : List Answer) : State := { boot with answers := .ok 0x51 false :: ok0 :: .ok 0x00000011000 false :: more }

/-- `examine` at its info register, and with it read and accepted. -/
def infoDue (more : List Answer) : State := (booting more).dtmRead 0x51 false (ok0 :: .ok 0x00000011000 false :: more)

def accepted (more : List Answer) : State :=
  ((infoDue more).readDone 0x11#16 [ok0] [] (.ok 0x00000011000 false) more).setScratchSize 18#32

theorem acceptInfo_p3 {t : State} (h : t.params = params3) : acceptInfo 0x4400#64 t = (.ok (), t.setScratchSize 18#32) := by
  have e : infoAuthType params3 0x4400#64 = 0#2 ∧ infoScratchSize params3 0x4400#64 = 18#32 ∧ ¬ params3.mirrorCapacity < 18 := by
    decide
  simp [acceptInfo, h, e]

theorem accepted_staging (more : List Answer) : Staging (booting more) (examineWords params3) (accepted more) := by
  have w : dtmAddressBits params3 (0x51 % 2 ^ 32) ≤ 16 := by decide
  have z : (infoDue []).addressBits ≠ 0#8 ∧ (0x11#16).toNat < 2 ^ (infoDue []).addressBits.toNat ∧ FinalAnswer boot ok0 ∧
    FinalAnswer boot (.ok 0x00000011000 false) ∧ (answerData boot (.ok 0x00000011000 false)).zeroExtend 64 = 0x4400#64 := by decide
  have r := readProc_ok (s := infoDue more) (bs := []) (rest := more) ⟨rfl, rfl⟩ z.1
    (.inr ⟨rfl, z.2.1, LoopAnswers.one (z.2.2.1.any _)⟩) (by simp) (by simp) (z.2.2.2.1.any _) rfl
  rw [answerData_any boot, z.2.2.2.2] at r
  exact .start rfl rfl w r (acceptInfo_p3 rfl)

/-- `examine` on P3's geometry and module, with these words still to be staged and these answers to come. -/
def Due (all : List Answer) (words : List (Word × Word)) (more : List Answer) : Prop :=
  ∃ t, Staging (booting all) words t ∧ SessionOpen t ∧ t.addressBits = 5#8 ∧ t.scratchSize = 18#32 ∧ t.params = params3 ∧
    t.answers = more

theorem ok0_final (t : State) : FinalAnswer t ok0 := FinalAnswer.any (s := boot) (by decide) t

theorem busReady_five {t : State} {a : DbusAddr} (ho : SessionOpen t) (hb : t.addressBits = 5#8) (ha : a.toNat < 2 ^ 5) :
    BusReady t a := ⟨ho, by rw [hb]; decide, by rw [hb]; exact ha⟩

theorem Due.next {all more : List Answer} {k v : Word} {word : Word × Word} {words : List (Word × Word)}
    (h : Due all ((k, v) :: word :: words) (ok0 :: ok0 :: ok0 :: more))
    (hk : (slotAddress k).toNat < 2 ^ 5 ∧ k < 18#32 ∧ k.toNat < params3.mirrorCapacity) : Due all (word :: words) more := by
  obtain ⟨t, h, ho, hb, hs, hp, ha⟩ := h
  obtain ⟨w, hw, g, e⟩ := h.word (busReady_five ho hb hk.1) (by rw [hs]; exact hk.2.1) (by rw [hp]; exact hk.2.2)
    (ok0_final t) (ok0_final t) (ok0_final t) ha
  exact ⟨w, hw, g.session, g.addressBits.trans hb, g.scratchSize.trans hs, g.params.trans hp, e⟩

/-- The first word is due, and after five words answered SUCCESS the jump. -/
theorem due_first (more : List Answer) : Due more (examineWords params3) more :=
  ⟨_, accepted_staging more, ⟨rfl, rfl⟩, rfl, rfl, rfl, rfl⟩

theorem due_last (more : List Answer) :
    Due (List.replicate 15 ok0 ++ more) [(5#32, resumeJumpWord params3 5#32)] more :=
  (due_first _).next (by decide) |>.next (by decide) |>.next (by decide) |>.next (by decide) |>.next (by decide)

/-- The jump's write loop in `examine`, BUSY to the ceiling. -/
theorem witness_BusyToTheCeilingIsFatal_examine :
    ∃ t, ComesToWrite (booting (List.replicate 15 ok0 ++ [busy0, busy0, busy0, busy0])) .examine t (slotAddress 5#32)
        (wdata (resumeJumpWord params3 5#32) false) ∧
      BusReady t (slotAddress 5#32) ∧ GivesUp t [busy0, busy0, busy0] busy0 ∧ t.answers = [busy0, busy0, busy0] ++ busy0 :: [] := by
  obtain ⟨t, h, ho, hb, hs, hp, ha⟩ := due_last [busy0, busy0, busy0, busy0]
  refine ⟨t, .examine h (by rw [hs]; decide) fun _ => by decide, busReady_five ho hb (by decide), ?_, ha⟩
  have b : answerCode t busy0 = some .busy := (answerCode_any ready t _).trans (by decide)
  exact ⟨by simp [BusyAnswer, b, hp]; decide, b, .inl (by rw [hp]; rfl)⟩

/-- The first word's write in `examine`, and then its verification: a failed flush in either phase of that read. -/
theorem witness_TransportErrorShortCircuits_examine :
    (∃ t, ComesToWrite (booting [.err]) .examine t (slotAddress 0#32) (wdata params3.probe.w0 false) ∧
      BusReady t (slotAddress 0#32) ∧ t.answers = [] ++ .err :: []) ∧
    ∃ u, ComesToRead (booting [ok0, .err]) .examine u (slotAddress 0#32) ∧ BusReady u (slotAddress 0#32) ∧
      cacheHit u (slotAddress 0#32) = false ∧ u.answers = [] ++ .err :: [] := by
  constructor
  · obtain ⟨t, h, ho, hb, hs, hp, ha⟩ := due_first [.err]
    exact ⟨t, .examine h (by rw [hs]; decide) (by simp), busReady_five ho hb (by decide), ha⟩
  · obtain ⟨t, h, ho, hb, hs, hp, ha⟩ := due_first [ok0, .err]
    have w := writeWordProc_ok (value := params3.probe.w0) (f := false) (bs := []) (busReady_five ho hb (a := slotAddress 0#32) (by decide))
      (by rw [hs]; decide) (by simp) (by simp) (ok0_final t) ha
    exact ⟨_, .examineVerify h (by simp) w, busReady_five ho hb (by decide), rfl, rfl⟩

/-- The second write loop of `halt`, the one that triggers, slot 0 written. -/
theorem witness_TransportErrorShortCircuits_haltJump :
    ∃ u, ComesToWrite { withRam with answers := [ok0, .err] } .halt u 1#16 (wdata (resumeJumpWord params3 1#32) true) ∧
      SessionOpen withRam ∧ BusReady u 1#16 ∧ u.answers = [] ++ .err :: [] ∧ u.scratchMirror[0]? = some params3.haltInsn := by
  have w := writeWordProc_ok (s := { withRam with answers := [ok0, .err] }) (index := 0#32) (value := params3.haltInsn) (f := false)
    (bs := []) (y := ok0) (rest := [.err]) (by decide) (by decide) (by simp) (by simp) (by decide) rfl
  exact ⟨_, .haltJump (by decide) (.inl ⟨by decide, rfl⟩) w (by decide), by decide, by decide, rfl, rfl⟩

/-- The data phase of `examine`'s read of the info register. -/
theorem witness_BusyDataPhaseIsFatal_examine :
    ∃ u, ComesToRead { boot with answers := [.ok 0x51 false, ok0, busy0, busy0, busy0, busy0] } .examine u 0x11#16 ∧
      SessionOpen u ∧ u.addressBits ≠ 0#8 ∧ AddressPhaseAnswers u 0x11#16 [ok0] ∧ GivesUp u [busy0, busy0, busy0] busy0 ∧
      u.answers = [ok0] ++ ([busy0, busy0, busy0] ++ busy0 :: []) :=
  ⟨_, .examineInfo rfl rfl (by decide), by decide, by decide,
    .inr ⟨by decide, by decide, LoopAnswers.one (by decide)⟩, by decide, by decide⟩

/-- `examine` of a DTM that reports width 0, and of one whose one-bit bus cannot carry the info register's address. -/
theorem witness_ScanBeforeGeometryAsserts_examine :
    (∃ u, ComesToRead { boot with answers := [.ok 0x01 false] } .examine u 0x11#16 ∧ SessionOpen u ∧ u.retry = none ∧
      u.addressBits = 0#8) ∧
    ∃ u, ComesToRead { boot with answers := [.ok 0x11 false] } .examine u 0x11#16 ∧ SessionOpen u ∧ u.retry = none ∧
      u.addressBits ≠ 0#8 ∧ cacheHit u 0x11#16 = false ∧ 2 ^ u.addressBits.toNat ≤ (0x11#16).toNat :=
  ⟨⟨_, .examineInfo rfl rfl (by decide), by decide, rfl, by decide⟩,
    _, .examineInfo rfl rfl (by decide), by decide, rfl, by decide, by decide, by decide⟩

/-- V42-17: the second flush of a `read` fails. -/
theorem test_read_data_phase_fails :
    (after (.read 0x11#16) { ready with answers := [ok0, .err] }).result = some (.err .transportError) ∧
    shiftCount (after (.read 0x11#16) { ready with answers := [ok0, .err] }).portTrace = 2 ∧
    cacheHit (after (.read 0x11#16) { ready with answers := [ok0, .err] }) 0#16 = true := by decide +kernel

/-- A write BUSY to the ceiling meets its bound (T3); commands with a loop, with many, and with hooks. -/
theorem witness_ScansPerCommandAreBounded :
    (∃ t, exec (.write 0x10#16 0x1234#34) { ready with answers := [busy0, busy0, busy0, busy0] } = .next t ∧
      shiftCount t.portTrace = 4 ∧ scanBound ready (.write 0x10#16 0x1234#34) = 4) ∧
    (∃ t, exec (.writeResumeJump 17#32 true) { withRam with answers := [ok0] } = .next t) ∧
    (∃ t, exec .examine boot = .next t) ∧ scanBound boot .examine = 81 ∧
    (∃ t, exec .halt hooked = .next t) ∧ ∃ t, exec .deviceReset hooked = .next t :=
  ⟨⟨_, exec_after _ _, by decide +kernel, by decide⟩, ⟨_, exec_after _ _⟩, ⟨_, exec_after _ _⟩, by decide, ⟨_, exec_after _ _⟩,
    _, exec_after _ _⟩

theorem witness_BareResponseIsReturned : ready.retry = none := by decide

/-- A retry loop open on a WRITE, with `n` retries behind it. -/
def looping (n : Nat) : State := { ready with retry := some ⟨.write, 0x10#16, 0x1234#34, n⟩ }

theorem witness_TerminalResponseEndsLoop :
    (looping 0).retry = some ⟨.write, 0x10#16, 0x1234#34, 0⟩ ∧ ResultCode.success ≠ .busy ∧ ResultCode.noWrite ≠ .busy ∧
    ResultCode.failed ≠ .busy := by decide

/-- The last retry the ceiling allows. -/
theorem witness_BusyResponseReissuesRequest :
    (looping 2).retry = some ⟨.write, 0x10#16, 0x1234#34, 2⟩ ∧ BusReady (looping 2) 0x10#16 ∧
    timedOut (looping 2) = false ∧ 2 + ([] : List Answer).length < (looping 2).params.maxRetries ∧
    answerCode (looping 2) ok0 = some .success ∧ { looping 2 with answers := [ok0] }.answers = [] ++ ok0 :: [] := by decide

theorem witness_BusyResponseAtCeilingIsFatal :
    (looping 3).retry = some ⟨.write, 0x10#16, 0x1234#34, 3⟩ ∧ (looping 3).fault = none ∧
    (looping 3).params.maxRetries ≤ 3 ∧ timedOut { timed with timeoutExpired := true } = true := by decide

theorem witness_ReadDtmInfoStoresWidth :
    SessionOpen boot ∧ { boot with answers := [.ok 0x51 false] }.answers = .ok 0x51 false :: [] ∧
    dtmAddressBits boot.params (0x51 % 2 ^ 32) ≤ 16 := by decide

/-- V40-4, with its field of five bits; 16, the greatest width that is stored; and a failed flush. -/
theorem witness_ReadDtmInfoFailures :
    16 < dtmAddressBits { params3 with dtminfoAddrbitsWidth := 5 } (0x110 % 2 ^ 32) ∧
    dtmAddressBits { params3 with dtminfoAddrbitsWidth := 5 } (0x100 % 2 ^ 32) = 16 ∧
    SessionOpen boot ∧ boot.examined = false ∧ { boot with answers := [.err] }.answers = .err :: [] := by decide

theorem witness_IndexOutOfRangeRefused :
    SessionOpen withRam ∧ withRam.scratchSize ≤ 18#32 ∧
    Instr.readWord 18#32 ∈ [Instr.readWord 18#32, .writeWord 18#32 0#32 true, .verifyWord 18#32 0#32,
      .writeResumeJump 18#32 true] ∧
    { withRam with scratchSize := 1#32 }.scratchSize < 2#32 := by decide

/-- The last slot of an 18-word Debug RAM. -/
theorem witness_WriteWordSendsAndMirrors :
    SlotReady withRam 17#32 ∧ (∀ b ∈ [busy0], BusyAnswer withRam b) ∧ [busy0].length ≤ withRam.params.maxRetries ∧
    FinalAnswer withRam ok0 ∧ { withRam with answers := [busy0, ok0] }.answers = [busy0] ++ ok0 :: [] ∧
    FinalAnswer withRam (rsp .noWrite 0#34) ∧ withRam.scratchMirror.length = withRam.params.mirrorCapacity ∧
    withRam.scratchValidMask.length = withRam.params.mirrorCapacity ∧ (17#32).toNat < withRam.params.mirrorCapacity := by decide

/-- A miss, and a hit on slot 0. -/
theorem witness_ReadWordReturnsLowBits :
    (SessionOpen withRam ∧ withRam.addressBits ≠ 0#8 ∧ 17#32 < withRam.scratchSize ∧
      AddressPhaseAnswers withRam (slotAddress 17#32) [ok0] ∧ FinalAnswer withRam ok0 ∧
      { withRam with answers := [ok0, ok0] }.answers = [ok0] ++ ([] ++ ok0 :: [])) ∧
    AddressPhaseAnswers warm (slotAddress 0#32) [] :=
  ⟨⟨by decide, by decide, by decide, .inr ⟨by decide, by decide, [], ok0, rfl, by decide, by decide, by decide⟩,
    by decide, by decide⟩, .inl ⟨by decide, rfl⟩⟩

/-- A match and a mismatch. -/
theorem witness_VerifyWordCompares :
    SessionOpen withRam ∧ withRam.addressBits ≠ 0#8 ∧ 17#32 < withRam.scratchSize ∧
    AddressPhaseAnswers withRam (slotAddress 17#32) [ok0] ∧ FinalAnswer withRam (rsp .success 0x3DEADBEEF#34) ∧
    0xDEADBEEF#32 = (answerData withRam (rsp .success 0x3DEADBEEF#34)).extractLsb' 0 32 ∧ 0xDEADBEEF#32 ≠ 0#32 :=
  ⟨by decide, by decide, by decide, .inr ⟨by decide, by decide, [], ok0, rfl, by decide, by decide, by decide⟩,
    by decide, by decide, by decide⟩

theorem witness_WriteResumeJumpStagesJump :
    (0x300 : Int) = (withRam.params.resumeVector.toNat : Int) -
      (withRam.params.scratchBase.toNat + 4 * mapIndex (17#32).toNat : Nat) ∧
    (0x300 : Int) % 2 = 0 ∧ -(2 ^ 20) ≤ (0x300 : Int) ∧ (0x300 : Int) ≤ 2 ^ 20 - 2 ∧ SlotReady withRam 17#32 ∧
    FinalAnswer withRam ok0 ∧ { withRam with answers := [ok0] }.answers = [] ++ ok0 :: [] := by decide

/-- Just beyond the range on either side, and an odd offset. -/
theorem witness_JumpOutOfRangeRefused :
    SessionOpen withRam ∧ 0#32 < withRam.scratchSize ∧
    jumpOffset { params3 with resumeVector := 0x100400#32 } 0#32 = 2 ^ 20 ∧
    jumpOffset { params3 with scratchBase := 0x100002#32, resumeVector := 0#32 } 0#32 = -(2 ^ 20) - 2 ∧
    jumpOffset { params3 with resumeVector := 0x401#32 } 0#32 = 1 := by decide

theorem witness_EncodeJumpLayout : params3.jumpEncoder = .jalX0 := by decide

theorem witness_ResumeJumpReachesVector :
    { boot with corePc := 0x404#32 }.params.jumpEncoder = .jalX0 ∧ jumpOffsetLegal (jumpOffset params3 1#32) = true ∧
    { boot with corePc := 0x404#32 }.corePc.toNat = slotCoreAddress params3 1#32 := by decide

/-- A low register, the control register, one that is neither, and a cold cache. -/
theorem witness_PollAddressChoice :
    ((0x0F#16).toNat < 16 ∨ 0x0F#16 = params3.ctrlAddr) ∧ ((0x10#16).toNat < 16 ∨ 0x10#16 = params3.ctrlAddr) ∧
    ¬ ((0x11#16).toNat < 16 ∨ 0x11#16 = params3.ctrlAddr) ∧ boot.lastAddress = none := by decide

/-- A hit, and a miss on slot 1. -/
theorem witness_PollDecodesStatus :
    (SessionOpen warm ∧ warm.addressBits ≠ 0#8 ∧ AddressPhaseAnswers warm (pollAddress warm) [] ∧
      FinalAnswer warm (rsp .success 0x100000000#34)) ∧
    AddressPhaseAnswers staged (pollAddress staged) [ok0] :=
  ⟨⟨by decide, by decide, .inl ⟨by decide, rfl⟩, by decide⟩,
    .inr ⟨by decide, by decide, [], ok0, rfl, by decide, by decide, by decide⟩⟩

/-- A hook whose first command is a scan of an address the bus cannot carry, the refusal handed on. -/
def failingHook : State := { hooked with hookScripts := [[⟨.scan .read 0x80#16 0#34, true⟩]] }

/-- A hook whose first scan finds the transport dead. -/
def dyingHook : State := { hooked with hookScripts := [[⟨.scan .read 0#16 0#34, true⟩]], answers := [.err] }

/-- An on-reset hook that does nothing, and then a post-reset hook as `failingHook`'s. -/
def failingSecondHook : State := { hooked with hookScripts := [[], [⟨.scan .read 0x80#16 0#34, true⟩]] }

/-- Each of the three callers. -/
theorem witness_HookStopsItsCommand :
    SessionOpen dyingHook ∧ 2#32 ≤ dyingHook.scratchSize ∧ dyingHook.params.hasHook .preHalt = true ∧
    (∃ s1, runHook dyingHook.nextHookScript (dyingHook.enterHook .preHalt) = (.err .transportError, s1)) ∧
    (∃ s1, runHook failingHook.nextHookScript (failingHook.enterHook .onReset) = (.refused (.addressRange 0x80#16), s1)) ∧
    (∃ s0 s1, HookRuns .onReset { failingSecondHook with
        scratchValidMask := List.replicate failingSecondHook.params.mirrorCapacity false, lifecycle := .unexamined } s0 ∧
      failingSecondHook.params.hasHook .postReset = true ∧
      runHook s0.nextHookScript (s0.enterHook .postReset) = (.refused (.addressRange 0x80#16), s1)) :=
  ⟨by decide, by decide, by decide, ⟨_, rfl⟩, ⟨_, rfl⟩, _, _, .inr ⟨by decide, rfl⟩, by decide, rfl⟩

/-- Without a hook and with one. -/
theorem witness_HaltStagesAndTriggers :
    (SessionOpen withRam ∧ 2#32 ≤ withRam.scratchSize ∧ HookRuns .preHalt withRam withRam ∧ withRam.addressBits ≠ 0#8 ∧
      jumpOffsetLegal (jumpOffset withRam.params 1#32) = true ∧ FinalAnswer withRam ok0 ∧
      { withRam with answers := [ok0, ok0] }.answers = [] ++ ok0 :: ([] ++ ok0 :: [])) ∧
    ∃ s1, HookRuns .preHalt hooked s1 ∧ SessionOpen s1 :=
  ⟨⟨by decide, by decide, .inl ⟨by decide, rfl⟩, by decide, by decide, by decide, by decide⟩,
    _, .inr ⟨by decide, rfl⟩, by decide⟩

/-- Without hooks and with both. -/
theorem witness_DeviceResetInvalidates :
    (SessionOpen withRam ∧
      HookRuns .onReset { withRam with
        scratchValidMask := List.replicate withRam.params.mirrorCapacity false, lifecycle := .unexamined }
        withRam.invalidateOnDeviceReset ∧
      HookRuns .postReset withRam.invalidateOnDeviceReset withRam.invalidateOnDeviceReset) ∧
    (SessionOpen hooked ∧ ∃ s1 s2,
      HookRuns .onReset { hooked with
        scratchValidMask := List.replicate hooked.params.mirrorCapacity false, lifecycle := .unexamined } s1 ∧
      HookRuns .postReset s1 s2) :=
  ⟨⟨by decide, .inl ⟨by decide, rfl⟩, .inl ⟨by decide, rfl⟩⟩,
    by decide, _, _, .inr ⟨by decide, rfl⟩, .inr ⟨by decide, rfl⟩⟩

theorem witness_ResetPlaceholdersDoNothing : SessionOpen boot := by decide

theorem witness_ExamineIsIdempotent :
    SessionOpen { boot with examined := true } ∧ { boot with examined := true }.examined = true := by decide

/-- P3, and the same with the info register already in the cache. -/
theorem witness_ExamineStagesProbe :
    (SessionOpen boot ∧ boot.examined = false ∧
      { boot with answers := p3Answers }.answers =
        .ok 0x51 false :: ([ok0] ++ Answer.ok 0x00000011000 false :: (p3Answers.drop 3 ++ [])) ∧
      (p3Answers.drop 3).length = 18 ∧ cacheHit boot boot.params.infoAddr = false ∧
      (∀ r ∈ p3Answers.drop 3, FinalAnswer boot r) ∧ FinalAnswer boot (.ok 0x00000011000 false) ∧
      dtmAddressBits boot.params (0x51 % 2 ^ 32) = 5 ∧ 5 < 2 ^ 5 ∧ boot.params.infoAddr.toNat < 2 ^ 5 ∧
      infoAuthType boot.params ((answerData boot (.ok 0x00000011000 false)).zeroExtend 64) = 0#2 ∧
      infoScratchSize boot.params ((answerData boot (.ok 0x00000011000 false)).zeroExtend 64) = 18#32 ∧
      jumpOffsetLegal (jumpOffset boot.params 5#32) = true ∧ boot.scratchMirror.length = boot.params.mirrorCapacity ∧
      boot.scratchValidMask.length = boot.params.mirrorCapacity) ∧
    cacheHit { boot with lastAddress := some 0x11#16, lastOp := .read } params3.infoAddr = true := by decide

/-- The read of the info register refused: a bus of one address bit cannot carry its address. -/
theorem witness_ExamineChecksInfoRegister_read :
    SessionOpen boot ∧ boot.examined = false ∧ dtmAddressBits boot.params (0x11 % 2 ^ 32) = 1 ∧
    ∃ t, exec (.read boot.params.infoAddr) ({ boot with answers := [.ok 0x11 false] }.dtmRead 0x11 false []) = .next t ∧
      t.result = some (.refused (.addressRange 0x11#16)) :=
  ⟨by decide, by decide, by decide, _, exec_after _ _, by decide +kernel⟩

/-- V44-4: a Debug RAM of one word. -/
theorem test_examine_small :
    (after .examine { boot with answers := [.ok 0x51 false, ok0, ok0, ok0, ok0, ok0] }).result =
      some (.refused (.indexRange 1#32)) ∧
    (after .examine { boot with answers := [.ok 0x51 false, ok0, ok0, ok0, ok0, ok0] }).scratchSize = 1#32 ∧
    (after .examine { boot with answers := [.ok 0x51 false, ok0, ok0, ok0, ok0, ok0] }).fault = none := by decide +kernel

/-- V44-2, V44-3, V44-4, and the largest Debug RAM too small for the probe. -/
theorem witness_ExamineChecksInfoRegister :
    (SessionOpen boot ∧ boot.examined = false ∧ FinalAnswer boot ok0 ∧ FinalAnswer boot (rsp .success 0x4404#34) ∧
      infoAuthType boot.params ((answerData boot (rsp .success 0x4404#34)).zeroExtend 64) ≠ 0#2) ∧
    (infoAuthType params3 ((answerData boot (rsp .success 0xFC00#34)).zeroExtend 64) = 0#2 ∧
      { params3 with mirrorCapacity := 32 }.mirrorCapacity <
        (infoScratchSize params3 ((answerData boot (rsp .success 0xFC00#34)).zeroExtend 64)).toNat) ∧
    dtmAddressBits boot.params (0x51 % 2 ^ 32) = 5 ∧ boot.params.infoAddr.toNat < 2 ^ 5 ∧
    (infoScratchSize boot.params ((answerData boot ok0).zeroExtend 64) = 1#32 ∧
      infoAuthType boot.params ((answerData boot ok0).zeroExtend 64) = 0#2 ∧ [ok0, ok0, ok0].length = 3 * (1#32).toNat ∧
      boot.scratchValidMask.length = boot.params.mirrorCapacity) ∧
    (infoScratchSize boot.params ((answerData boot (rsp .success 0x1000#34)).zeroExtend 64) = 5#32 ∧
      (5#32).toNat ≤ 2 ^ 5 ∧ (List.replicate 15 ok0).length = 3 * (5#32).toNat ∧
      ∀ r ∈ List.replicate 15 ok0, FinalAnswer boot r) := by decide

/-- The invariant holds in a session, and a step from it ends in a next state. -/
theorem witness_StepKeepsInvariant : boot.Inv ∧ ∃ t, step { boot with commands := [⟨.cmd, 1⟩] } = .next t :=
  ⟨by decide, _, rfl⟩

/-- An instruction that writes neither mirror nor mask, the one that writes the mask only, and a word write that fails. -/
theorem witness_RegistersHaveTheirWriters :
    (∃ t, exec (.jumpWord 0x400#21) boot = .next t) ∧ writesMirror (.jumpWord 0x400#21) = false ∧
    (∃ t, exec (.verifyWord 0#32 1#32) { withRam with answers := [ok0, ok0] } = .next t) ∧
    writesMirror (.verifyWord 0#32 1#32) = false ∧
    ∃ t, exec (.writeWord 0#32 1#32 false) { withRam with answers := [.err] } = .next t ∧
      t.result = some (.err .transportError) :=
  ⟨⟨_, rfl⟩, rfl, ⟨_, exec_after _ _⟩, rfl, _, exec_after _ _, by decide +kernel⟩

/-- The device of the two claims about the pipeline: every register 0 but for the halt bit, everywhere set. -/
def haltedDevice : DeviceView where
  before := fun _ => ⟨fun _ => 0x100000000#34, true, false, false⟩
  after := fun _ => ⟨fun _ => 0x100000000#34, true, false, false⟩

/-- Two reads on the scan port, the second carrying what the device holds. -/
theorem haltedDevice_pipeline (a b : DbusAddr) (d : DbusData) :
    APipeline haltedDevice
      [.dbus .read a 0#34 .success d, .dbus .read b 0#34 .success 0x100000000#34] := by
  intro k _ _ _ _ _ _ _ _ _ _ _ h' _
  match k with
  | 0 => simp at h'; exact h'.2.2.2.2.symm
  | k + 1 => simp at h'

theorem haltedDevice_status : AStatusBits params3 haltedDevice := by
  intro k a _
  exact (by decide : (0x100000000#34).getLsbD haltBit = true ∧ (0x100000000#34).getLsbD intBit = false)

/-- A running device with the given data in register 0. -/
def slotZero (d : DbusData) : DeviceState := ⟨fun a => if a = 0#16 then d else 0#34, false, false, false⟩

/-- The device of P3 over its scans 3 to 5: register 0 takes the first probe word at scan 3, without the request bit. -/
def p3Device : DeviceView where
  before := fun k => slotZero (if k = 0 then 0#34 else 0x0FFF04493#34)
  after := fun _ => slotZero 0x0FFF04493#34

/-- P3, scans 3 to 5: the five assumptions hold together on the spec's own trace, though the WRITE carries bit 32 and what is read
back does not (90_conflicts.md, self-review correction 1). -/
theorem test_assumptions_agree_on_P3 (xs : List Exchange)
    (hx : xs = [.dbus .write 0#16 0x1FFF04493#34 .success 0#34, .dbus .read 0#16 0#34 .success 0#34,
      .dbus .read 0#16 0#34 .success 0x0FFF04493#34]) :
    APipeline p3Device xs ∧ AWrite p3Device xs ∧ AAddr0Safe p3Device xs ∧ ADtminfoZeroSafe p3Device xs ∧
    AStatusBits params3 p3Device := by
  subst hx
  refine ⟨?_, ?_, ?_, ?_, ?_⟩
  · intro k a d r i op' a' d' r' i' h _ h' _
    match k with
    | 0 => simp at h
    | 1 => simp at h h'; rw [← h'.2.2.2.2, ← h.1]; decide
    | k + 2 => simp at h'
  · intro k a d i h
    match k with
    | 0 => simp at h; rw [← h.1, ← h.2.1]; decide
    | 1 | 2 | k + 3 => simp at h
  · intro k d r i h
    match k with
    | 0 | k + 3 => simp at h
    | 1 | 2 => rfl
  · intro k h
    match k with
    | 0 | 1 | 2 | k + 3 => simp at h
  · intro k a _
    cases k <;> by_cases h : a = 0#16 <;> (simp [p3Device, slotZero, h]; try decide)

theorem witness_ReadReturnsRegisterUnderPipeline :
    BusReady ready 0x11#16 ∧ cacheHit ready 0x11#16 = false ∧ FinalAnswer ready ok0 ∧
    FinalAnswer ready (rsp .success 0x100000000#34) ∧
    ∃ t, exec (.read 0x11#16) { ready with answers := [ok0, rsp .success 0x100000000#34] } = .next t ∧
      APipeline haltedDevice (traffic (t.portTrace.drop ready.portTrace.length)) := by
  refine ⟨by decide, by decide, by decide, by decide, _, exec_after _ _, ?_⟩
  have h : traffic ((after (.read 0x11#16) { ready with
      answers := [ok0, rsp .success 0x100000000#34] }).portTrace.drop ready.portTrace.length) =
      [.dbus .read 0x11#16 0#34 .success 0#34, .dbus .read 0#16 0#34 .success 0x100000000#34] := by decide +kernel
  rw [h]
  exact haltedDevice_pipeline _ _ _

theorem witness_PollSeesDeviceStatus :
    BusReady ready (pollAddress ready) ∧ cacheHit ready (pollAddress ready) = false ∧ FinalAnswer ready ok0 ∧
    FinalAnswer ready (rsp .success 0x100000000#34) ∧ AStatusBits ready.params haltedDevice ∧
    ∃ t, exec .poll { ready with answers := [ok0, rsp .success 0x100000000#34] } = .next t ∧
      APipeline haltedDevice (traffic (t.portTrace.drop ready.portTrace.length)) := by
  refine ⟨by decide, by decide, by decide, by decide, haltedDevice_status, _, exec_after _ _, ?_⟩
  have h : traffic ((after .poll { ready with
      answers := [ok0, rsp .success 0x100000000#34] }).portTrace.drop ready.portTrace.length) =
      [.dbus .read 0#16 0#34 .success 0#34, .dbus .read 0#16 0#34 .success 0x100000000#34] := by decide +kernel
  rw [h]
  exact haltedDevice_pipeline _ _ _

end Sys2Proof.Tests
end

section
/-! SUPPORT. The statements on the scope of the model (spec/00_scope.md): every instruction answers a next state, and what `examine`
makes of the debug-module-info register (44_lifecycle.md R193, R224 to R226), each check of it in closed form. -/

namespace Sys2Proof.Machine

/-- Settles O8: the shape of the next state, which every instruction has. -/
theorem everyInstructionAnswersNext : Obligations.EveryInstructionAnswersNext := fun i s =>
  (exec_shape i s).imp fun _ h => h.1

/-! ### Runs of list updates at consecutive places -/

/-- Updates at the places `b`, `b + 1`, ... replace just that piece of a list. -/
theorem foldl_set_consecutive {α β : Type} (key : β → Nat) (val : β → α) : ∀ (updates : List β) (b : Nat) (l : List α),
    updates.map key = List.range' b updates.length → b + updates.length ≤ l.length →
    updates.foldl (fun m x => m.set (key x) (val x)) l =
      l.take b ++ updates.map val ++ l.drop (b + updates.length)
  | [], b, l, _, _ => by simp
  | x :: updates, b, l, hk, hl => by
    simp only [List.length_cons, List.map_cons, List.range'_succ, List.cons.injEq] at hk hl
    obtain ⟨hx, hk⟩ := hk
    have hlt : b < l.length := by omega
    have htake : (l.set b (val x)).take (b + 1) = l.take b ++ [val x] := by
      rw [List.take_add_one, List.take_set_of_le (Nat.le_refl b)]
      simp [hlt]
    rw [List.foldl_cons, hx, foldl_set_consecutive key val updates (b + 1) _ hk (by rw [List.length_set]; omega), htake,
      List.drop_set_of_lt (by omega)]
    simp [Nat.add_comm, Nat.add_left_comm]

/-! ### The words `examine` stages and the requests it makes of them -/

/-- Below index 16 a slot's DBUS address is its index (R66). -/
theorem slotAddress_toNat {index : Word} (h : index.toNat < 16) : (slotAddress index).toNat = index.toNat := by
  rw [slotAddress, mapIndex, if_pos h, BitVec.toNat_ofNat]
  omega

theorem examineWords_length (p : Params) : (examineWords p).length = 6 := rfl

/-- The words stand at the indices 0 to 5, in order (R193, C1). -/
theorem examineWords_indices (p : Params) {n : Nat} (hn : n ≤ 6) :
    ((examineWords p).take n).map (fun word => word.1.toNat) = List.range' 0 n := by
  rw [List.map_take, show (examineWords p).map (fun word => word.1.toNat) = List.range' 0 6 from rfl]
  interval_cases n <;> rfl

/-- After `n` words of the six the next is the one at index `n`. -/
theorem examineWords_drop (p : Params) {n : Nat} (hn : n < 6) :
    ∃ value words, (examineWords p).drop n = (BitVec.ofNat 32 n, value) :: words := by
  interval_cases n <;> exact ⟨_, _, rfl⟩

theorem examineWords_take_index {p : Params} {n : Nat} (hn : n ≤ 6) {word : Word × Word}
    (h : word ∈ (examineWords p).take n) : word.1.toNat < n := by
  have hm := List.mem_map_of_mem (f := fun word : Word × Word => word.1.toNat) h
  rw [examineWords_indices p hn, List.mem_range'_1] at hm
  omega

/-- The requests of R194 after the info register are those of its six words, one after the other. -/
theorem examineRequests_eq (p : Params) (w : Nat) (hit : Bool) :
    examineRequests p w hit = (if hit = true then [] else [(w + 36, assemble .read p.infoAddr 0#34)]) ++
      [(w + 36, assemble .read 0#16 0#34)] ++ (examineWords p).flatMap (stagedRequests w) := by
  simp [examineRequests, examineWords, probeWords, stagedRequests, slotAddress, mapIndex]

theorem take_flatMap_stagedRequests (w : Nat) : ∀ (words : List (Word × Word)) (n : Nat),
    (words.flatMap (stagedRequests w)).take (3 * n) = (words.take n).flatMap (stagedRequests w)
  | [], _ => by simp
  | _ :: _, 0 => by simp
  | word :: words, n + 1 => by
    rw [List.flatMap_cons, Nat.mul_succ, Nat.add_comm, List.take_succ_cons, List.flatMap_cons,
      ← take_flatMap_stagedRequests w words n]
    exact List.take_length_add_append (l₁ := stagedRequests w word) (3 * n)

/-- The start of `examine` and the requests of its first `n` words. -/
theorem examineRequests_take (p : Params) (w n : Nat) (hit : Bool) :
    ((32, 0) :: examineRequests p w hit).take ((if hit = true then 2 else 3) + 3 * n) =
      (32, 0) :: (if hit = true then [] else [(w + 36, assemble .read p.infoAddr 0#34)]) ++
        [(w + 36, assemble .read 0#16 0#34)] ++ ((examineWords p).take n).flatMap (stagedRequests w) := by
  rw [examineRequests_eq, ← take_flatMap_stagedRequests]
  cases hit
  · exact List.take_length_add_append (l₁ := [_, _, _]) (3 * n)
  · exact List.take_length_add_append (l₁ := [_, _]) (3 * n)

variable {s t : State}

/-- Staging the first `n` of the six words sets just the first `n` words of the mirror. -/
theorem foldl_set_examineWords {n : Nat} {mirror : List Word} (p : Params) (hn : n ≤ 6) (hl : n ≤ mirror.length) :
    ((examineWords p).take n).foldl (fun m word => m.set word.1.toNat word.2) mirror =
      ((examineWords p).take n).map Prod.snd ++ mirror.drop n := by
  have hlen : ((examineWords p).take n).length = n := by simp [examineWords_length, hn]
  have h := foldl_set_consecutive (fun word => word.1.toNat) Prod.snd ((examineWords p).take n) 0 mirror
    (by rw [hlen, examineWords_indices p hn]) (by omega)
  simpa [hlen] using h

/-- The first words of the six, up to five, are words of the probe. -/
theorem map_snd_take_examineWords (p : Params) {n : Nat} (hn : n < 6) :
    ((examineWords p).take n).map Prod.snd =
      [p.probe.w0, p.probe.w1, p.probe.w2, p.probe.w3, p.probe.w4].take n := by
  rw [List.map_take]
  interval_cases n <;> rfl

/-- Staging the first `n` of the six words decides just the first `n` valid bits. -/
theorem stagedMask_examineWords {n : Nat} {rs : List Answer} {mask : List Bool} (p : Params) (hn : n ≤ 6)
    (hr : rs.length = 3 * n) (hl : n ≤ mask.length) :
    stagedMask s ((examineWords p).take n) rs mask = stagedValid s ((examineWords p).take n) rs ++ mask.drop n := by
  have hlen : ((examineWords p).take n).length = n := by simp [examineWords_length, hn]
  have hvalid : (stagedValid s ((examineWords p).take n) rs).length = n := by rw [stagedValid_length _ _ _ (by omega), hlen]
  have hkeys : (((examineWords p).take n).zip (stagedValid s ((examineWords p).take n) rs)).map (fun x => x.1.1.toNat) =
      List.range' 0 n := by
    rw [← examineWords_indices p hn]
    conv_rhs => rw [← List.map_fst_zip (l₁ := (examineWords p).take n) (l₂ := stagedValid s ((examineWords p).take n) rs)
      (by omega), List.map_map]
    rfl
  have hzip : (((examineWords p).take n).zip (stagedValid s ((examineWords p).take n) rs)).length = n := by
    rw [List.length_zip, hlen, hvalid, Nat.min_self]
  have h := foldl_set_consecutive (fun x => x.1.1.toNat) Prod.snd
    (((examineWords p).take n).zip (stagedValid s ((examineWords p).take n) rs)) 0 mask (by rw [hzip, hkeys]) (by omega)
  rw [List.map_snd_zip (by omega), hzip] at h
  simpa [stagedMask] using h

/-! ### `examine` in a Debug RAM too small for its words -/

/-- A word write to a slot that does not exist is refused in an open session (R171). -/
theorem writeWordProc_illegal {index value : Word} {f : Bool} (ho : SessionOpen s) (h : s.scratchSize ≤ index) :
    writeWordProc index value f s = (.refused (.indexRange index), s) := by
  rw [writeWordProc, andThen_ok (requireSession_open ho), andThen_refused (requireIndex_illegal h)]

/-- The index of a resume jump is checked before its offset (R178). -/
theorem writeResumeJumpProc_illegal {index : Word} {f : Bool} (ho : SessionOpen s) (h : s.scratchSize ≤ index) :
    writeResumeJumpProc index f s = (.refused (.indexRange index), s) := by
  rw [writeResumeJumpProc, andThen_ok (requireSession_open ho), andThen_refused (requireIndex_illegal h)]

/-- `examine` come to a word whose slot does not exist is refused there. -/
theorem stageRest_illegal {index value : Word} (words : List (Word × Word)) (ho : SessionOpen s) (h : s.scratchSize ≤ index) :
    stageRest ((index, value) :: words) s = (.refused (.indexRange index), s) := by
  cases words with
  | nil => rw [stageRest_last, andThen_refused (writeResumeJumpProc_illegal ho h)]
  | cons next words => exact andThen_refused (writeWordProc_illegal ho h)

/-- Words staged before the last one are staged just as they are by themselves. -/
theorem stageRest_of_stageWords {words tail : List (Word × Word)} {last : Word × Word}
    (h : stageWords (words ++ tail) s = stageWords tail t) :
    stageRest (words ++ tail ++ [last]) s = stageRest (tail ++ [last]) t := by
  rw [← stageRest_append, ← stageRest_append]
  simp only [andThen, h]

/-- The six words, of which no more than the five probe words are split off. -/
theorem examineWords_split (p : Params) {n : Nat} (hn : n < 6) :
    examineWords p = (examineWords p).take n ++ (probeWords p.probe).drop n ++ [(5#32, resumeJumpWord p 5#32)] ∧
    (examineWords p).drop n = (probeWords p.probe).drop n ++ [(5#32, resumeJumpWord p 5#32)] := by
  have hd : (examineWords p).drop n = (probeWords p.probe).drop n ++ [(5#32, resumeJumpWord p 5#32)] :=
    List.drop_append_of_le_length (show n ≤ 5 by omega)
  exact ⟨by rw [List.append_assoc, ← hd, List.take_append_drop], hd⟩

/-- `examine` with fewer than six slots, each with its bus address and its place in the mirror: a word is staged in each, and
the index after the last is refused (R171, R193). -/
theorem stageRest_small {n : Nat} {rs more : List Answer} (ho : SessionOpen s) (hb : s.addressBits ≠ 0#8)
    (hn : s.scratchSize.toNat = n) (h6 : n < 6) (hc : n ≤ s.params.mirrorCapacity) (hw : n ≤ 2 ^ s.addressBits.toNat)
    (hl : rs.length = 3 * n) (hf : ∀ r ∈ rs, FinalAnswer s r) (hs : s.answers = rs ++ more) :
    ∃ t evs, stageRest (examineWords s.params) s = (.refused (.indexRange s.scratchSize), t) ∧ StagingFrame s t ∧
      t.answers = more ∧
      t.scratchMirror = ((examineWords s.params).take n).foldl (fun m word => m.set word.1.toNat word.2) s.scratchMirror ∧
      t.log = s.log ++ stagedLog s ((examineWords s.params).take n) rs ∧
      t.scratchValidMask = stagedMask s ((examineWords s.params).take n) rs s.scratchValidMask ∧
      t.portTrace = s.portTrace ++ evs ∧
      shiftsOf evs = ((examineWords s.params).take n).flatMap (stagedRequests s.addressBits.toNat) := by
  have hslot : ∀ word ∈ (examineWords s.params).take n,
      BusReady s (slotAddress word.1) ∧ word.1 < s.scratchSize ∧ word.1.toNat < s.params.mirrorCapacity := fun word hm => by
    have hi := examineWords_take_index (by omega) hm
    exact ⟨⟨ho, hb, by rw [slotAddress_toNat (by omega)]; omega⟩, by rw [BitVec.lt_def]; omega, by omega⟩
  obtain ⟨t, evs, e, g, h⟩ := stageWords_prefix ((probeWords s.params.probe).drop n) _ s rs more ho hslot
    (by simp [examineWords_length]; omega) hf hs
  obtain ⟨hsplit, hdrop⟩ := examineWords_split s.params h6
  obtain ⟨value, words, hnext⟩ := examineWords_drop s.params h6
  have hsize : BitVec.ofNat 32 n = s.scratchSize := by rw [← hn, BitVec.ofNat_toNat, BitVec.setWidth_eq]
  refine ⟨t, evs, ?_, g, h⟩
  calc stageRest (examineWords s.params) s
      = stageRest ((examineWords s.params).drop n) t := by
        rw [hdrop, ← stageRest_of_stageWords e, ← hsplit]
    _ = (.refused (.indexRange s.scratchSize), t) := by
        rw [hnext, hsize, stageRest_illegal words g.session (by rw [g.scratchSize]; exact BitVec.le_refl _)]

/-! ### The checks on the info register -/

/-- An authenticating module is fatal (R193, R224). -/
theorem acceptInfo_auth {info : BitVec 64} (h : infoAuthType s.params info ≠ 0#2) :
    acceptInfo info s =
      (.err (.authRequired (infoAuthType s.params info)), s.recordFault (.authRequired (infoAuthType s.params info))) := by
  rw [acceptInfo, if_pos h, raiseFatal_apply]

/-- The zero check of R225 never fires (R100). -/
theorem infoScratchSize_ne_zero (p : Params) (info : BitVec 64) : infoScratchSize p info ≠ 0#32 := fun h => by
  have := (infoScratchSize_bounds p info).1
  simp [h] at this

/-- A module larger than the mirror is fatal (R193, R226). -/
theorem acceptInfo_tooLarge {info : BitVec 64} (ha : infoAuthType s.params info = 0#2)
    (hc : s.params.mirrorCapacity < (infoScratchSize s.params info).toNat) :
    acceptInfo info s = (.err (.scratchAllocFail (infoScratchSize s.params info)),
      s.recordFault (.scratchAllocFail (infoScratchSize s.params info))) := by
  rw [acceptInfo, if_neg (not_not_intro ha), if_neg (infoScratchSize_ne_zero _ _), if_pos hc, raiseFatal_apply]

/-- A module without authentication that the mirror holds has its size stored (R193). -/
theorem acceptInfo_ok {info : BitVec 64} (ha : infoAuthType s.params info = 0#2)
    (hc : (infoScratchSize s.params info).toNat ≤ s.params.mirrorCapacity) :
    acceptInfo info s = (.ok (), s.setScratchSize (infoScratchSize s.params info)) := by
  rw [acceptInfo, if_neg (not_not_intro ha), if_neg (infoScratchSize_ne_zero _ _), if_neg (Nat.not_lt.2 hc), done_apply]

/-- A procedure that ended without a value, run as a command, stopped. -/
theorem stop_of_finish_not_ok {α : Type} {p : Proc α} {f : α → Value} (h : finish p f s = .next t)
    (hn : ∀ r, t.result ≠ some (.ok r)) : ∃ (e : Stop) (u : State), p s = (e.res, u) ∧ t = u.setResult e.result := by
  rcases hp : p s with ⟨a | k | k, u⟩
  · rw [finish_ok hp] at h
    cases h
    exact absurd rfl (hn (f a))
  · rw [finish_err hp] at h
    exact ⟨.err k, u, rfl, (Host.Outcome.next.inj h).symm⟩
  · rw [finish_refused hp] at h
    exact ⟨.refused k, u, rfl, (Host.Outcome.next.inj h).symm⟩

/-- `examine` whose read of the info register stops ends as that read does (R193, R11). -/
theorem exec_examine_of_infoRead_stops {v : Nat} {late : Bool} {rest : List Answer} (ho : SessionOpen s)
    (hx : s.examined = false) (hs : s.answers = .ok v late :: rest) (hw : dtmAddressBits s.params (v % 2 ^ 32) ≤ 16)
    (hr : exec (.read s.params.infoAddr) (s.dtmRead v late rest) = .next t) (hn : ∀ r, t.result ≠ some (.ok r)) :
    exec .examine s = .next t := by
  obtain ⟨e, u, hp, rfl⟩ := stop_of_finish_not_ok hr hn
  exact exec_read_stops (.examineInfo hx hs hw) ho ho hp

/-! ### What `examine` makes of the info register -/

section

variable {w : Nat} {pre rs more : List Answer} {y : Answer} {info : BitVec 64}

/-- A check that fails ends `examine` with its fatal error in the state the info register was read in (R193, R230). -/
theorem InfoRead.rejected {k : FatalKind} (h : InfoRead s t w pre y more)
    (hk : (infoAuthType s.params info ≠ 0#2 ∧ k = .authRequired (infoAuthType s.params info)) ∨
      (infoAuthType s.params info = 0#2 ∧ s.params.mirrorCapacity < (infoScratchSize s.params info).toNat ∧
        k = .scratchAllocFail (infoScratchSize s.params info))) :
    examineFrom info t = (.err k, t.recordFault k) := by
  refine andThen_err ?_
  rw [← show t.params = s.params from h.frame.params] at hk
  rcases hk with ⟨ha, rfl⟩ | ⟨ha, hc, rfl⟩
  · exact acceptInfo_auth ha
  · exact acceptInfo_tooLarge ha hc

/-- A module of fewer than six words that the mirror holds: its size is stored, a word is staged in each slot, and the index
after the last is refused (R171, R193). -/
theorem InfoRead.small {size : Word} (h : InfoRead s t w pre y (rs ++ more)) (hw16 : w ≤ 16) (hw0 : w ≠ 0)
    (hsize : size = infoScratchSize s.params info) (ha : infoAuthType s.params info = 0#2) (h6 : size.toNat < 6)
    (hc : size.toNat ≤ s.params.mirrorCapacity) (hbus : size.toNat ≤ 2 ^ w) (hl : rs.length = 3 * size.toNat)
    (hf : ∀ r ∈ rs, FinalAnswer s r) :
    ∃ u evs, examineFrom info t = (.refused (.indexRange size), u) ∧ StagingFrame (t.setScratchSize size) u ∧
      u.answers = more ∧
      u.scratchMirror =
        ((examineWords s.params).take size.toNat).foldl (fun m word => m.set word.1.toNat word.2) s.scratchMirror ∧
      u.log = t.log ++ stagedLog s ((examineWords s.params).take size.toNat) rs ∧
      u.scratchValidMask = stagedMask s ((examineWords s.params).take size.toNat) rs s.scratchValidMask ∧
      u.portTrace = t.portTrace ++ evs ∧
      shiftsOf evs = ((examineWords s.params).take size.toNat).flatMap (stagedRequests w) := by
  have hp : t.params = s.params := h.frame.params
  have hbits : t.addressBits.toNat = w := by
    rw [h.frame.addressBits, BitVec.toNat_ofNat]
    omega
  have hz : t.addressBits ≠ 0#8 := fun hz => hw0 (by rw [← hbits, hz]; rfl)
  have hacc : acceptInfo info t = (.ok (), t.setScratchSize size) := by
    rw [hsize, ← hp]
    exact acceptInfo_ok (by rw [hp]; exact ha) (by rw [hp, ← hsize]; exact hc)
  obtain ⟨u, evs, e, g, hans, hmirror, hlog, hmask, htrace, hshifts⟩ :=
    stageRest_small (s := t.setScratchSize size) h.frame.session hz rfl h6 (by rw [State.setScratchSize_params, hp]; exact hc)
      (by rw [State.setScratchSize_addressBits, hbits]; exact hbus) hl (fun r hr => (hf r hr).any _) h.answers
  simp only [State.setScratchSize_params, State.setScratchSize_scratchMirror, State.setScratchSize_scratchValidMask,
    State.setScratchSize_log, State.setScratchSize_addressBits, State.setScratchSize_scratchSize, hp, hbits, h.mirror, h.mask,
    stagedLog_any s, stagedMask, stagedValid_any s] at e hmirror hlog hmask hshifts
  exact ⟨u, evs, (examineFrom_stageRest hacc rfl).trans (by rw [hp]; exact e), g, hans, hmirror, hlog, hmask, htrace, hshifts⟩

end

/-- Settles O56: from the state in which `examine` looks at the info register, each of its checks in closed form. -/
theorem examineChecksInfoRegister : Obligations.ExamineChecksInfoRegister := by
  refine ⟨fun s t v late rest ho hx hs hw hr hn => exec_examine_of_infoRead_stops ho hx hs hw hr hn, ?_⟩
  intro s v late pre y rest w info k ho hx hs hpre hfpre hy hw hw16 hw0 hia hinfo
  obtain ⟨t, hexam, hread⟩ := examineProc_info ho hx hs hpre hfpre hy hw hw16 hw0 hia
  rw [← hinfo] at hexam
  obtain ⟨evs, htrace, hshifts⟩ := hread.trace
  refine ⟨(infoScratchSize_bounds _ _).1, (infoScratchSize_bounds _ _).2, fun hk => ?_, ?_⟩
  · exact ⟨_, evs, finish_err (hexam.trans (hread.rejected hk)), rfl, by simp [hread.frame.session.2],
      hread.frame.examined.trans hx, hread.frame.scratchSize, hread.mirror, hread.mask, htrace, hshifts⟩
  · rintro size rs more hsize ha h6 hc hbus hlen rfl hrs hfrs
    obtain ⟨u, evs', e, g, hans, hmirror, hlog, hmask, htrace', hshifts'⟩ :=
      hread.small hw16 hw0 hsize ha h6 hc hbus hrs hfrs
    rw [foldl_set_examineWords _ (by omega) (by omega), map_snd_take_examineWords _ h6] at hmirror
    have hprobe : ([s.params.probe.w0, s.params.probe.w1, s.params.probe.w2, s.params.probe.w3,
        s.params.probe.w4].take size.toNat).length = size.toNat := by simp; omega
    have hvalid : (stagedValid s ((examineWords s.params).take size.toNat) rs).length = size.toNat := by
      rw [stagedValid_length] <;> simp [examineWords_length] <;> omega
    refine ⟨_, evs ++ evs', finish_refused (hexam.trans e), rfl, g.session.2, g.examined.trans (hread.frame.examined.trans hx),
      g.scratchSize, g.lifecycle.trans hread.frame.lifecycle, hans, ?_, ?_, hlog.trans (by rw [hread.log]), fun hm => ?_,
      htrace'.trans (by rw [htrace, List.append_assoc]), ?_⟩
    · rw [State.setResult_scratchMirror, hmirror, List.take_left' hprobe]
    · rw [State.setResult_scratchMirror, hmirror, List.drop_left' hprobe]
    · rw [State.setResult_scratchValidMask, hmask, stagedMask_examineWords _ (by omega) hrs (by omega)]
      exact ⟨List.take_left' hvalid, List.drop_left' hvalid⟩
    · rw [examineRequests_take, shiftsOf_append, hshifts, hshifts']

end Sys2Proof.Machine
end

section
/-! SUPPORT. The registers of the block across one instruction (spec/10_state.md R20 to R39): who writes which, what is only
added to, and what the address cache shows; each read off the shape of the next state (`exec_shape`). -/

namespace Sys2Proof.Machine

variable {i : Instr} {s t u : State}

theorem exec_next_shape (h : exec i s = .next t) : ExecShape s i t := by
  obtain ⟨_, e, hs⟩ := exec_shape i s
  obtain rfl := Host.Outcome.next.inj (e.symm.trans h)
  exact hs

/-! ### The frame of an instruction -/

/-- What an instruction leaves alone, what it only adds to, and what its scans leave in the address cache: each register with
the instructions that may write it (R21, R22, R25, R26, R29 to R32, R38; log 8). -/
structure InstrFrame (i : Instr) (s t : State) : Prop where
  params : t.params = s.params
  commands : t.commands = s.commands
  attached : i ∉ [.attach, .detach] → t.attached = s.attached
  fault : i ∉ [.attach, .detach] → ∀ k, s.fault = some k → t.fault = some k
  lifecycle : i ∉ [.poll, .deviceReset, .attach, .detach] → t.lifecycle = s.lifecycle
  geometry : i ∉ [.readDtmInfo, .examine, .attach, .detach] → t.addressBits = s.addressBits ∧ t.irSelect = s.irSelect
  debugRam : i ∉ [.examine, .attach, .detach] → t.scratchSize = s.scratchSize ∧ t.examined = s.examined
  corePc : (∀ imm, i ≠ .jumpWord imm) → t.corePc = s.corePc
  log : ∃ rs, t.log = s.log ++ rs
  trace : ∃ evs, t.portTrace = s.portTrace ++ evs ∧
    (∀ n out, PortEvent.shift n out ∈ evs → n = 32 ∨ (n = busWidth t ∧ t.addressBits ≠ 0#8)) ∧
    (i ∉ [.attach, .detach] → CacheTracks s t evs)

theorem EngineFrame.portSelect (s : State) (r : DataReg) : EngineFrame s (s.portSelect r) :=
  ⟨rfl, rfl, rfl, rfl, rfl, rfl, rfl, rfl, rfl, rfl, fun _ h => h, rfl, rfl, fun h => h, ⟨[], by simp⟩,
    ⟨[.select r], rfl, by simp, rfl, rfl⟩⟩

namespace InstrFrame

/-- The answer on the command port is none of these registers. -/
theorem setResult (h : InstrFrame i s t) (r : CmdResult) : InstrFrame i s (t.setResult r) :=
  ⟨h.params, h.commands, h.attached, h.fault, h.lifecycle, h.geometry, h.debugRam, h.corePc, h.log, h.trace⟩

theorem ofEngine (h : EngineFrame s t) : InstrFrame i s t where
  params := h.params
  commands := h.commands
  attached _ := h.attached
  fault _ := h.fault
  lifecycle _ := h.lifecycle
  geometry _ := ⟨h.addressBits, h.irSelect⟩
  debugRam _ := ⟨h.scratchSize, h.examined⟩
  corePc _ := h.corePc
  log := h.log
  trace := by
    obtain ⟨evs, e, hw, hc⟩ := (ExamineFrame.ofEngine h).trace
    exact ⟨evs, e, hw, fun _ => hc⟩

/-- The two instructions that find out the geometry; only `examine` finds out the Debug RAM. -/
theorem ofExamine (h : ExamineFrame s t) (hi : i ∈ [.readDtmInfo, .examine])
    (hr : i ≠ .examine → t.scratchSize = s.scratchSize ∧ t.examined = s.examined) : InstrFrame i s t where
  params := h.params
  commands := h.commands
  attached _ := h.attached
  fault _ := h.fault
  lifecycle _ := h.lifecycle
  geometry hn := absurd (List.mem_append_left [Instr.attach, Instr.detach] hi) hn
  debugRam hn := hr fun he => hn (by simp [he])
  corePc _ := h.corePc
  log := h.log
  trace := by
    obtain ⟨evs, e, hw, hc⟩ := h.trace
    exact ⟨evs, e, hw, fun _ => hc⟩

/-- `poll` writes the lifecycle state behind its read. -/
theorem poll (h : EngineFrame s u) (l : Lifecycle) : InstrFrame .poll s (u.setLifecycle l) :=
  have g : InstrFrame .poll s u := ofEngine h
  ⟨g.params, g.commands, g.attached, g.fault, fun hn => absurd (by simp) hn, g.geometry, g.debugRam, g.corePc, g.log, g.trace⟩

/-- `device_reset` invalidates the lifecycle state before its hooks. -/
theorem deviceReset (h : EngineFrame s.invalidateOnDeviceReset u) : InstrFrame .deviceReset s u :=
  have g : InstrFrame .deviceReset s.invalidateOnDeviceReset u := ofEngine h
  ⟨g.params, g.commands, g.attached, g.fault, fun hn => absurd (by simp) hn, g.geometry, g.debugRam, g.corePc, g.log, g.trace⟩

/-- `attach` and `detach` write every session register, and neither ports nor log. -/
theorem startSession (hi : i ∈ [.attach, .detach]) (b : Bool) : InstrFrame i s (s.startSession b) where
  params := rfl
  commands := rfl
  attached hn := absurd hi hn
  fault hn := absurd hi hn
  lifecycle hn := absurd (List.mem_append_right [Instr.poll, Instr.deviceReset] hi) hn
  geometry hn := absurd (List.mem_append_right [Instr.readDtmInfo, Instr.examine] hi) hn
  debugRam hn := absurd (List.mem_append_right [Instr.examine] hi) hn
  corePc _ := rfl
  log := ⟨[], by simp⟩
  trace := ⟨[], by simp, by simp, fun hn => absurd hi hn⟩

theorem jumpWord (imm : BitVec 21) (pc : Word) : InstrFrame (.jumpWord imm) s (s.setCorePc pc) :=
  have g : InstrFrame (.jumpWord imm) s s := ofEngine (EngineFrame.refl s)
  ⟨rfl, rfl, g.attached, g.fault, g.lifecycle, g.geometry, g.debugRam, fun hn => absurd rfl (hn imm), g.log, g.trace⟩

end InstrFrame

/-- Every instruction keeps its frame, from every state and on every answer. -/
theorem exec_frame (h : exec i s = .next t) : InstrFrame i s t := by
  cases exec_next_shape h with
  | engine _ r frame => exact (InstrFrame.ofEngine frame).setResult r
  | selectDtminfo => exact .ofEngine (EngineFrame.portSelect s _)
  | selectDbus => exact .ofEngine (EngineFrame.portSelect s _)
  | jumpWord imm => exact .jumpWord imm _
  | attach => exact (InstrFrame.startSession (by simp) true).setResult _
  | detach => exact (InstrFrame.startSession (by simp) false).setResult _
  | readDtmInfo r =>
    obtain ⟨hx, hn, -⟩ := readDtmInfoProc_examined s
    exact (InstrFrame.ofExamine (ExamineFrame.readDtmInfo s) (by simp) fun _ => ⟨hn, hx⟩).setResult r
  | examine r => exact (InstrFrame.ofExamine (examineProc_frame s) (by simp) fun hn => absurd rfl hn).setResult r
  | poll l r frame => exact (InstrFrame.poll frame l).setResult r
  | deviceReset r frame => exact (InstrFrame.deviceReset frame).setResult r

theorem not_sessionEvent (ha : i ≠ .attach) (hd : i ≠ .detach) : i ∉ [.attach, .detach] := by
  simp [ha, hd]

/-- Settles O21: the record is only added to, and the cache shows the last request of what was added. -/
theorem cacheTracksEveryScan : Obligations.CacheTracksEveryScan := by
  intro i s t ha hd h
  obtain ⟨evs, e, -, hc⟩ := (exec_frame h).trace
  exact ⟨evs, e, hc (not_sessionEvent ha hd)⟩

/-- Settles O22: the data scans in what an instruction adds to the record. -/
theorem dbusScansNeedGeometry : Obligations.DbusScansNeedGeometry := by
  intro i s t h
  obtain ⟨evs, e, hw, -⟩ := (exec_frame h).trace
  exact ⟨⟨evs, e, hw⟩, (exec_frame h).log⟩

/-- Settles O14: the session events alone write over a recorded kind. -/
theorem firstFatalKindIsSticky : Obligations.FirstFatalKindIsSticky :=
  fun _ _ _ k ha hd hf h => (exec_frame h).fault (not_sessionEvent ha hd) k hf

end Sys2Proof.Machine
end

section
/-! SUPPORT. The session gate (spec/10_state.md R21, R30; 60_exceptions.md R231, R234): where the entry tests refuse, every gated
instruction is refused and nothing else happens, though `read` and `write` come to the tests only in the scan of their loop. -/

namespace Sys2Proof.Machine

variable {s : State} {k : RefusalKind}

/-- An open retry loop is nothing to the entry tests. -/
theorem requireSession_setRetry (r : Option RetryLoop) (h : requireSession s = (.refused k, s)) :
    requireSession (s.setRetry r) = (.refused k, s.setRetry r) := by
  rcases ha : s.attached with _ | _
  · rw [requireSession_detached ha] at h
    cases h
    exact requireSession_detached ha
  · rcases hf : s.fault with _ | f
    · rw [requireSession_open ⟨ha, hf⟩] at h
      cases h
    · rw [requireSession_failed ha hf] at h
      cases h
      exact requireSession_failed ha hf

/-- A retry loop whose scan the entry tests refuse is left as if never opened. -/
theorem scanRetry_gated (hr : s.retry = none) (h : requireSession s = (.refused k, s)) (op : WireOp) (a : DbusAddr)
    (d : DbusData) : scanRetry op a d s = (.refused k, s) := by
  rw [scanRetry_refused (andThen_refused (requireSession_setRetry _ h))]
  simp [State.setRetry, ← hr]

/-- `read` is refused in its address phase on a miss, in its data phase on a hit. -/
theorem readProc_gated (hr : s.retry = none) (h : requireSession s = (.refused k, s)) (a : DbusAddr) :
    readProc a s = (.refused k, s) := by
  rcases hc : cacheHit s a with _ | _
  · exact readProc_missRefused hc (scanRetry_gated hr h _ _ _)
  · have hit : addressPhase a s = (.ok (), s) := by simp [addressPhase, hc]
    rw [readProc, andThen_ok hit, andThen_refused (scanRetry_gated hr h _ _ _)]

/-- Where the entry tests refuse, a gated instruction is refused and changes nothing but the answer (R231). -/
theorem exec_gated {i : Instr} (hg : gated i = true) (hr : s.retry = none) (h : requireSession s = (.refused k, s)) :
    exec i s = .next (s.setResult (.refused k)) := by
  cases i with
  | attach | detach | selectDtminfo | selectDbus | jumpWord => cases hg
  | rspSuccess | rspNoWrite | rspFailed | rspBusy => cases hg
  | dbusNop | dbusRead | dbusWrite | dbusConditionalWrite | scan => exact finish_refused (andThen_refused h)
  | read a => exact finish_refused (readProc_gated hr h a)
  | write a v => exact finish_refused (andThen_refused (scanRetry_gated hr h _ _ _))
  | verifyWord => exact finish_refused (andThen_refused (andThen_refused h))
  | readDtmInfo | readWord | writeWord | writeResumeJump => exact finish_refused (andThen_refused h)
  | examine | poll | halt | deviceReset => exact finish_refused (andThen_refused h)
  | assertReset | deassertReset => exact finish_refused h

/-- Settles O12: the first of the entry tests. -/
theorem detachedBlockRefuses : Obligations.DetachedBlockRefuses :=
  fun _ _ hg hr ha => exec_gated hg hr (requireSession_detached ha)

/-- Settles O13: the second of the entry tests. -/
theorem failedSessionRefuses : Obligations.FailedSessionRefuses :=
  fun _ _ _ hg hr ha hf => exec_gated hg hr (requireSession_failed ha hf)

end Sys2Proof.Machine
end

section
/-! SUPPORT. The invariant between commands (spec/10_state.md R22 to R39, R54): it holds at reset, a session start restores it,
an open or failed session keeps it by its frame, and a detached block keeps it because it refuses whatever would write a register. -/

namespace Sys2Proof.Machine

variable {i : Instr} {s t u : State}

/-- Settles O10: each clause of the invariant at the power-on values of R54. -/
theorem resetMeetsInvariant : Obligations.ResetMeetsInvariant := by
  unfold Obligations.ResetMeetsInvariant
  decide

/-- A session start leaves legal registers whatever they were, and no loop open if none was. -/
theorem State.startSession_inv (hr : s.retry = none) (b : Bool) : (s.startSession b).Inv := by
  simp [State.Inv, hr]

/-- In an attached block the invariant says nothing of the lifecycle state. -/
theorem State.Inv.setLifecycle (h : s.Inv) (ha : s.attached = true) (l : Lifecycle) : (s.setLifecycle l).Inv := by
  obtain ⟨hbits, hmax, hcap, hmask, hmirror, hretry, hsel, hop, -, hslots⟩ := h
  exact ⟨hbits, hmax, hcap, hmask, hmirror, hretry, hsel, hop, fun hd => by simp [ha] at hd, hslots⟩

/-- A device reset clears the mask, whose length stays the mirror's capacity, and the lifecycle state. -/
theorem State.Inv.invalidateOnDeviceReset (h : s.Inv) (ha : s.attached = true) : s.invalidateOnDeviceReset.Inv := by
  obtain ⟨hbits, hmax, hcap, -, hmirror, hretry, hsel, hop, -, hslots⟩ := h
  exact ⟨hbits, hmax, hcap, by simp, hmirror, hretry, hsel, hop, fun hd => by simp [ha] at hd, hslots⟩

/-- What `examine` may change, and so what the engine may, keeps the invariant of an attached block. -/
theorem ExamineFrame.inv (g : ExamineFrame s t) (h : s.Inv) (ha : s.attached = true) (hr : t.retry = none) : t.Inv := by
  obtain ⟨hbits, hmax, hcap, hmask, hmirror, -, hsel, hop, -, hslots⟩ := h
  refine ⟨g.geometry hbits, ?_, ?_, by rw [g.maskLength, g.params, hmask], by rw [g.mirrorLength, g.params, hmirror], hr,
    g.selector hsel, g.cache hop, fun hd => ?_, fun hx => ?_⟩
  · rcases g.size with e | ⟨hn, -⟩
    · rwa [e]
    · exact hn
  · rw [g.params]
    rcases g.size with e | ⟨-, hn⟩
    · rwa [e]
    · exact hn
  · rw [g.attached, ha] at hd
    cases hd
  · rcases g.slots hx with ⟨hx', e⟩ | h6
    · rw [e]
      exact hslots hx'
    · exact h6

theorem EngineFrame.inv (g : EngineFrame s t) (h : s.Inv) (ha : s.attached = true) (hr : t.retry = none) : t.Inv :=
  (ExamineFrame.ofEngine g).inv h ha hr

/-- An attached block, its session open or failed, keeps the invariant. -/
theorem ExecShape.inv_of_attached (hs : ExecShape s i t) (h : s.Inv) (ha : s.attached = true) : t.Inv := by
  have hr : s.retry = none := by
    obtain ⟨-, -, -, -, -, hr, -⟩ := h
    exact hr
  cases hs with
  | engine _ r frame loop => exact frame.inv h ha (loop hr)
  | selectDtminfo => exact (EngineFrame.portSelect s .dtminfo).inv h ha hr
  | selectDbus => exact (EngineFrame.portSelect s .dbus).inv h ha hr
  | jumpWord => exact h
  | attach => exact State.startSession_inv hr true
  | detach => exact State.startSession_inv hr false
  | readDtmInfo =>
    obtain ⟨-, -, hl⟩ := readDtmInfoProc_examined s
    exact (ExamineFrame.readDtmInfo s).inv h ha (hl.trans hr)
  | examine => exact (examineProc_frame s).inv h ha (ClosesLoop.examine s hr)
  | poll l r frame loop => exact (frame.inv h ha (loop hr)).setLifecycle (frame.attached.trans ha) l
  | deviceReset r frame loop => exact frame.inv (h.invalidateOnDeviceReset ha) ha (loop hr)

/-- With no loop open a response row hands the response back and changes nothing but the answer (R135; log 9). -/
theorem takeResponse_bare (hr : s.retry = none) (c : ResultCode) (d : DbusData) :
    takeResponse c d s = .next (s.setResult (.ok (.scanned c d))) :=
  finish_ok (respond_bare hr)

/-- A detached block keeps the invariant: the gated instructions are refused, and the others write none of its registers but
to start a session. -/
theorem exec_inv_of_detached (h : s.Inv) (ha : s.attached = false) (he : exec i s = .next t) : t.Inv := by
  have hr : s.retry = none := by
    obtain ⟨-, -, -, -, -, hr, -⟩ := h
    exact hr
  rcases hg : gated i with _ | _
  · cases i with
    | attach => cases he; exact State.startSession_inv hr true
    | detach => cases he; exact State.startSession_inv hr false
    | selectDtminfo | selectDbus | jumpWord => cases he; exact h
    | rspSuccess | rspNoWrite | rspFailed | rspBusy =>
      cases (takeResponse_bare hr _ _).symm.trans he
      exact h
    | _ => cases hg
  · cases (exec_gated hg hr (requireSession_detached ha)).symm.trans he
    exact h

theorem exec_keeps_inv (h : s.Inv) (he : exec i s = .next t) : t.Inv := by
  rcases ha : s.attached with _ | _
  · exact exec_inv_of_detached h ha he
  · exact (exec_next_shape he).inv_of_attached h ha

/-- Settles O6: the word of the port is taken before its instruction runs. -/
theorem stepRunsDecodedInstruction : Obligations.StepRunsDecodedInstruction := by
  intro s w rest i hc hd
  simp only [step, hc, hd]
  rfl

/-- Settles O7: an empty port is the first branch of the step. -/
theorem idleStepChangesNothing : Obligations.IdleStepChangesNothing := by
  intro s hc
  simp only [step, hc]

/-- Everything a step to a next state can do: stay idle, or run one instruction with its word taken from the port. -/
theorem step_next_cases (h : step s = .next t) :
    t = s ∨ ∃ i rest, exec i (s.acceptCommand rest) = .next t := by
  rcases hc : s.commands with _ | ⟨w, rest⟩
  · exact .inl (Host.Outcome.next.inj (h.symm.trans (idleStepChangesNothing s hc)))
  · rcases hd : decode s.params w with why | i
    · simp [step, hc, hd] at h
    · exact .inr ⟨i, rest, (stepRunsDecodedInstruction s w rest i hc hd).symm.trans h⟩

/-- Settles O57: the idle step, or one instruction, the port being no part of the invariant. -/
theorem stepKeepsInvariant : Obligations.StepKeepsInvariant := by
  intro s t h hs
  rcases step_next_cases hs with rfl | ⟨i, rest, he⟩
  · exact h
  · exact exec_keeps_inv (s := s.acceptCommand rest) h he

end Sys2Proof.Machine
end

section
/-! SUPPORT. Power-on, the session events and single commands in closed form (spec/10_state.md R54; 42 R150; 43 R174; 44 R190, R191,
R203), and the fatal assertion of a scan before the geometry is known (R22, R223). -/

namespace Sys2Proof.Machine

variable {s : State}

/-- Settles O9: each register of `State.reset`. -/
theorem resetLeavesPowerOnState : Obligations.ResetLeavesPowerOnState := by
  unfold Obligations.ResetLeavesPowerOnState
  decide

/-- Settles O11: either event is one session start; the mirror is as long as the list of its free words. -/
theorem attachAndDetachStartOver : Obligations.AttachAndDetachStartOver := by
  intro s b
  refine ⟨(s.startSession b).scratchMirror, by simp, ?_⟩
  cases b <;> rfl

/-- Settles O15: a scripted answer, delivered in closed form. -/
theorem scanDeliversResponse : Obligations.ScanDeliversResponse := by
  intro s op a d v late rest hr hs
  have e := scanProc_ok (op := op) (dataOut := d) hr (State.nextAnswer_of_answers hs)
  rw [State.scanned_scripted hs] at e
  exact finish_ok e

/-- Settles O53: the session is open, so the mask and the lifecycle state go first, then either hook runs to its end. -/
theorem deviceResetInvalidates : Obligations.DeviceResetInvalidates := by
  intro s s1 s2 ho h1 h2
  refine finish_ok (p := deviceResetProc) (a := ()) ?_
  calc deviceResetProc s
      = andThen (callHook .onReset) (fun _ => callHook .postReset) s.invalidateOnDeviceReset := by
        rw [deviceResetProc, andThen_ok (requireSession_open ho), andThen_ok (update_apply _ _)]
    _ = callHook .postReset s1 := andThen_ok (callHook_runs h1)
    _ = (.ok (), s2) := callHook_runs h2

/-- Settles O39: the closed form of the word write, and the mirror word it leaves as the front end reads it. -/
theorem writeWordSendsAndMirrors : Obligations.WriteWordSendsAndMirrors := by
  intro s index value f bs rest x hslot hb hl hx hs
  have e := finish_ok (f := fun _ => .unit) (writeWordProc_ok (value := value) (f := f) hslot.1 hslot.2 hb hl hx hs)
  refine ⟨e, fun hm hv hi t ht => ?_⟩
  obtain rfl := Host.Outcome.next.inj (e.symm.trans ht)
  rw [State.readMirror_setResult, State.readMirror_writeMirror]
  · simp only [decide_eq_true_eq]
  exacts [hm, hv, hi]

/-! ### A scan before the geometry is known -/

/-- Every scan, read and write loop a command comes to before the geometry is known is the fatal assertion, with nothing
driven. -/
theorem exec_asserts {s1 : State} {i : Instr} {op : WireOp} {a : DbusAddr} {d : DbusData}
    (hi : (s1 = s ∧ i ∈ [.scan op a d, requestInstr op a d]) ∨ ComesToRead s i s1 a ∨ ComesToWrite s i s1 a d)
    (ho : SessionOpen s) (ho1 : SessionOpen s1) (hr : s1.retry = none) (hz : s1.addressBits = 0#8) :
    exec i s = .next { s1 with fault := some .assertAddressBits, result := some (.err .assertAddressBits) } := by
  rcases hi with ⟨rfl, hi⟩ | hread | hwrite
  · refine exec_scanOf hi fun f => (finish_err (scanProc_assert ho1 hz)).trans ?_
    simp [State.recordFault, State.setResult, ho1.2]
  · exact exec_read_stops (e := .err .assertAddressBits) hread ho ho1 (readProc_assert ho1 hr hz)
  · exact exec_write_stops (e := .err .assertAddressBits) hwrite ho ho1 (scanRetry_assert ho1 hr hz)

/-- Settles O18: `examine` of a DTM that reports width 0 comes to its read of the info register with that width stored. -/
theorem scanBeforeGeometryAsserts : Obligations.ScanBeforeGeometryAsserts := by
  refine ⟨fun s s1 i op a d hi ho ho1 hr hz => exec_asserts hi ho ho1 hr hz, ?_⟩
  intro s v late rest ho hr hx hs hw
  have hz : (s.dtmRead v late rest).addressBits = 0#8 := by simp only [State.dtmRead, hw]
  have hread := ComesToRead.examineInfo hx hs (show dtmAddressBits s.params (v % 2 ^ 32) ≤ 16 by omega)
  rw [exec_asserts (op := .read) (d := 0#34) (.inr (.inl hread)) ho ho hr hz, ← hz]

end Sys2Proof.Machine
end

section
/-! SUPPORT. The writers of the mirror and its valid mask (spec/10_state.md R27, R28), and what a command that stops has not yet
written (43 R174 to R178, 44 R193, R195, 40 R122). -/

namespace Sys2Proof.Machine

variable {i : Instr} {s t : State}

/-! ### The instructions that leave the mirror and the mask alone -/

/-- The mirror and its valid mask, as one view of the state. -/
def State.slots (s : State) : List Word × List Bool := (s.scratchMirror, s.scratchValidMask)

theorem slots_blind : EngineBlind State.slots :=
  ⟨fun _ _ => rfl, fun _ _ => rfl, fun _ _ => rfl, fun _ _ _ _ => rfl⟩

theorem State.slots_eq_iff :
    t.slots = s.slots ↔ t.scratchMirror = s.scratchMirror ∧ t.scratchValidMask = s.scratchValidMask :=
  Prod.mk_inj

theorem Keeps.readDtmInfo_slots : Keeps State.slots readDtmInfoProc :=
  fun s => State.slots_eq_iff.2 (readDtmInfoProc_mirror s)

theorem Keeps.poll_slots : Keeps State.slots pollProc :=
  Keeps.andThen (Keeps.still requireSession_state) fun _ s =>
    Keeps.andThen (Keeps.read slots_blind _) (fun _ _ => rfl) s

/-- A command whose procedure keeps a view of the state that the answer is no part of keeps it. -/
theorem Keeps.finish {α β : Type} {view : State → β} {p : Proc α} {f : α → Value} (hp : Keeps view p)
    (hv : ∀ s r, view (s.setResult r) = view s) (h : finish p f s = .next t) : view t = view s := by
  obtain ⟨r, e⟩ := finish_next p f s
  obtain rfl := Host.Outcome.next.inj (e.symm.trans h)
  exact (hv _ r).trans (hp s)

/-- What is no writer of the mirror is no writer of the mask, but for `verify_word` (R27, R28). -/
theorem exec_slots (hw : writesMirror i = false) (hv : ∀ index expected, i ≠ .verifyWord index expected)
    (h : exec i s = .next t) : t.slots = s.slots := by
  have run {α : Type} {p : Proc α} {f : α → Value} (hp : Keeps State.slots p) (he : Machine.finish p f s = .next t) :=
    hp.finish (fun _ _ => rfl) he
  cases i with
  | writeWord | writeResumeJump | examine | halt | deviceReset | attach | detach => cases hw
  | verifyWord index expected => exact absurd rfl (hv index expected)
  | dbusNop | dbusRead | dbusWrite | dbusConditionalWrite | scan => exact run (Keeps.scan slots_blind _ _ _) h
  | rspSuccess | rspNoWrite | rspFailed | rspBusy => exact run (Keeps.receive slots_blind _ _) h
  | selectDtminfo | selectDbus | jumpWord => cases h; rfl
  | readDtmInfo => exact run Keeps.readDtmInfo_slots h
  | read => exact run (Keeps.read slots_blind _) h
  | write => exact run (Keeps.write slots_blind _ _) h
  | readWord => exact run (Keeps.readWord slots_blind _) h
  | poll => exact run Keeps.poll_slots h
  | assertReset | deassertReset => exact run (Keeps.still requireSession_state) h

theorem exec_mirror (hw : writesMirror i = false) (h : exec i s = .next t) : t.scratchMirror = s.scratchMirror := by
  by_cases hv : ∃ index expected, i = .verifyWord index expected
  · obtain ⟨index, expected, rfl⟩ := hv
    exact (Keeps.verifyWord_mirror index expected).finish (fun _ _ => rfl) h
  · exact (State.slots_eq_iff.1 (exec_slots hw (fun index expected hi => hv ⟨index, expected, hi⟩) h)).1

/-! ### What a procedure has not written when it stops -/

/-- A procedure that leaves a view as it is wherever it does not end normally. -/
def KeepsIfStopped {α β : Type} (view : State → β) (p : Proc α) : Prop :=
  ∀ s, (∀ a, (p s).1 ≠ .ok a) → view (p s).2 = view s

namespace KeepsIfStopped

variable {α β γ : Type} {view : State → γ}

/-- A procedure that always ends normally may write what it likes. -/
theorem of_ok {p : Proc α} (h : ∀ s, ∃ a, (p s).1 = .ok a) : KeepsIfStopped view p := fun s hn => by
  obtain ⟨a, ha⟩ := h s
  exact absurd ha (hn a)

theorem andThen {p : Proc α} {f : α → Proc β} (hp : Keeps view p) (hf : ∀ a, KeepsIfStopped view (f a)) :
    KeepsIfStopped view (Machine.andThen p f) := fun s hn => by
  rcases andThen_cases p f s with ⟨a, -, e⟩ | e
  · rw [e] at hn ⊢
    exact (hf a _ hn).trans (hp s)
  · rw [e]
    exact hp s

/-- A command that is refused or fails has its procedure's view of the state. -/
theorem finish {p : Proc α} {f : α → Value} (hp : KeepsIfStopped view p) (hv : ∀ s r, view (s.setResult r) = view s)
    (h : finish p f s = .next t) (hn : ∀ r, t.result ≠ some (.ok r)) : view t = view s := by
  obtain ⟨e, u, hu, rfl⟩ := stop_of_finish_not_ok h hn
  have g := hp s (by rw [hu]; cases e <;> simp [Stop.res])
  rw [hu] at g
  exact (hv u _).trans g

/-- `poll` writes the lifecycle state at its end (R195). -/
theorem poll : KeepsIfStopped State.lifecycle pollProc :=
  andThen (Keeps.still requireSession_state) fun _ s =>
    andThen (fun s => (Framed.read _ s).lifecycle) (fun _ => of_ok fun _ => ⟨_, rfl⟩) s

/-- `read_dtm_info` stores the width at its end (R122). -/
theorem readDtmInfo : KeepsIfStopped State.addressBits readDtmInfoProc := fun s hn => by
  rcases readDtmInfoProc_cases s with ⟨k, e⟩ | ⟨-, e | ⟨n, e⟩ | ⟨w, -, e⟩⟩
  · rw [e]
  · rw [e]; rfl
  · rw [e]; rfl
  · exact absurd (by rw [e]) (hn w)

/-- `examine` sets `examined` at its end (R193). -/
theorem examine : KeepsIfStopped State.examined examineProc := by
  have accepted (info : BitVec 64) : Keeps State.examined (acceptInfo info) := fun s => by
    rcases acceptInfo_cases info s with ⟨k, e⟩ | ⟨-, -, e⟩ <;> rw [e] <;> rfl
  have body : KeepsIfStopped State.examined examineBody :=
    andThen (fun s => (readDtmInfoProc_examined s).1) fun _ =>
    andThen (fun s => (Framed.read _ s).examined) fun info =>
    andThen (accepted info) fun _ =>
    andThen (fun s => (Framed.stageWords _ s).examined) fun _ =>
    andThen (fun s => (Framed.writeResumeJump _ _ s).examined) fun _ =>
    andThen (fun s => (Framed.verifyWord _ _ s).examined) fun _ => of_ok fun _ => ⟨_, rfl⟩
  refine andThen (Keeps.still requireSession_state) fun _ s => ?_
  split
  · exact fun _ => rfl
  · exact body s

end KeepsIfStopped

/-- A word command that is refused or fails has written neither the mirror nor the mask (R174, R176, R178). -/
theorem exec_word_stopped {index value : Word} {f : Bool}
    (hi : i ∈ [.writeWord index value f, .writeResumeJump index f, .verifyWord index value]) (h : exec i s = .next t)
    (hn : ∀ r, t.result ≠ some (.ok r)) : t.slots = s.slots := by
  have run {α : Type} {p : Proc α} {f : α → Value} (hp : KeepsIfStopped State.slots p) (he : finish p f s = .next t) :=
    hp.finish (fun _ _ => rfl) he hn
  simp only [List.mem_cons, List.not_mem_nil, or_false] at hi
  rcases hi with rfl | rfl | rfl
  · exact run (fun _ => writeWordProc_stopped slots_blind) h
  · exact run (fun _ => writeResumeJumpProc_stopped slots_blind) h
  · exact run (fun _ => verifyWordProc_stopped slots_blind) h

/-- Settles O58: the frame of the instruction, the writers of the mirror and the mask, and what a stopped command kept. -/
theorem registersHaveTheirWriters : Obligations.RegistersHaveTheirWriters := by
  intro i s t h
  have g := exec_frame h
  refine ⟨g.lifecycle, g.geometry, g.debugRam, g.attached, g.corePc, fun hw => exec_mirror hw h,
    fun hw hv => (State.slots_eq_iff.1 (exec_slots hw hv h)).2, g.params, g.commands, fun hn => ⟨?_, ?_, ?_, ?_⟩⟩
  · exact fun _ _ _ hi => State.slots_eq_iff.1 (exec_word_stopped hi h hn)
  · rintro rfl
    exact KeepsIfStopped.poll.finish (fun _ _ => rfl) h hn
  · rintro rfl
    exact KeepsIfStopped.readDtmInfo.finish (fun _ _ => rfl) h hn
  · rintro rfl
    exact KeepsIfStopped.examine.finish (fun _ _ => rfl) h hn

end Sys2Proof.Machine
end

section
/-! SUPPORT. The Debug RAM mapper (spec/20_memory.md R66, R67), and the resume jump as the core that executes it sees it: the offset
R102 allows is even and fits 21 signed bits, so the staged word of R103 carries all of it. -/

namespace Sys2Proof

/-- The jump word of an even offset image decodes to that image (R103). -/
theorem decodeJump_jumpBits {imm : BitVec 21} (h : imm.getLsbD 0 = false) :
    decodeJump (jumpBits imm).toNat = .ok (.jumpWord imm) := by
  rw [decodeJump, if_neg (Nat.not_le.2 (jumpBits imm).isLt), if_pos (jumpBits_low imm), BitVec.ofNat_toNat,
    BitVec.setWidth_eq, jumpImm_jumpBits imm h]

namespace Machine

theorem mapIndex_of_lt {i : Nat} (h : i < 16) : mapIndex i = i := if_pos h

theorem mapIndex_of_ge {i : Nat} (h : 16 ≤ i) : mapIndex i = 0x40 + (i - 16) := if_neg (Nat.not_lt.2 h)

/-- The two halves of the mapper are each injective, and the first ends below where the second begins (R66, R67). -/
theorem mapIndex_injective : Function.Injective mapIndex := by
  intro i j h
  rcases Nat.lt_or_ge i 16 with hi | hi <;> rcases Nat.lt_or_ge j 16 with hj | hj
  · rwa [mapIndex_of_lt hi, mapIndex_of_lt hj] at h
  · rw [mapIndex_of_lt hi, mapIndex_of_ge hj] at h
    omega
  · rw [mapIndex_of_ge hi, mapIndex_of_lt hj] at h
    omega
  · rw [mapIndex_of_ge hi, mapIndex_of_ge hj] at h
    omega

/-- Settles O36: the two branches of the mapper, and its injectivity. -/
theorem mapSplitsInjectively : Obligations.MapSplitsInjectively :=
  ⟨fun _ => mapIndex_of_lt, fun _ => mapIndex_of_ge, fun _ _ h => mapIndex_injective h⟩

section
variable {p : Params} {off : Int}

theorem jumpOffsetLegal_iff : jumpOffsetLegal off = true ↔ off % 2 = 0 ∧ -(2 ^ 20) ≤ off ∧ off ≤ 2 ^ 20 - 2 := by
  simp only [jumpOffsetLegal, Bool.and_eq_true, decide_eq_true_eq, and_assoc]

theorem encodeJump_jalX0 (h : p.jumpEncoder = .jalX0) : encodeJump p off = jumpBits (BitVec.ofInt 21 off) := by
  rw [encodeJump, h]

/-- The image of a legal offset has bit 0 clear, which is the bit the jump word does not carry (R103). -/
theorem getLsbD_zero_of_legal (h : jumpOffsetLegal off = true) : (BitVec.ofInt 21 off).getLsbD 0 = false := by
  obtain ⟨heven, -, -⟩ := jumpOffsetLegal_iff.1 h
  have hnat : (BitVec.ofInt 21 off).toNat % 2 = 0 := by
    rw [BitVec.toNat_ofInt]
    omega
  simpa [BitVec.getLsbD, Nat.testBit_zero] using hnat

/-- A legal offset fits 21 signed bits, so its image extended to 32 is the offset (R102, R103). -/
theorem signExtend_ofInt_of_legal (h : jumpOffsetLegal off = true) :
    (BitVec.ofInt 21 off).signExtend 32 = BitVec.ofInt 32 off := by
  obtain ⟨-, hlo, hhi⟩ := jumpOffsetLegal_iff.1 h
  rw [BitVec.signExtend, BitVec.toInt_ofInt_eq_self (by decide) hlo (by omega)]

end

/-- The offset of a slot, added to that slot's core address, is the resume vector (R102). -/
theorem add_jumpOffset {p : Params} {index pc : Word} (h : pc.toNat = slotCoreAddress p index) :
    pc + BitVec.ofInt 32 (jumpOffset p index) = p.resumeVector := by
  calc pc + BitVec.ofInt 32 (jumpOffset p index)
      = BitVec.ofInt 32 (pc.toNat + jumpOffset p index) := by
        rw [BitVec.ofInt_add, BitVec.ofInt_natCast, BitVec.ofNat_toNat, BitVec.setWidth_eq]
    _ = BitVec.ofInt 32 p.resumeVector.toNat := by rw [jumpOffset, ← h, add_sub_cancel]
    _ = p.resumeVector := by rw [BitVec.ofInt_natCast, BitVec.ofNat_toNat, BitVec.setWidth_eq]

/-- The resume jump of a slot with a legal offset, read as a jump port word (R103, R178). -/
theorem decode_resumeJumpWord {p : Params} {index : Word} (he : p.jumpEncoder = .jalX0)
    (hl : jumpOffsetLegal (jumpOffset p index) = true) :
    decode p ⟨.jump, (resumeJumpWord p index).toNat⟩ = .ok (.jumpWord (BitVec.ofInt 21 (jumpOffset p index))) := by
  rw [resumeJumpWord, encodeJump_jalX0 he]
  exact decodeJump_jumpBits (getLsbD_zero_of_legal hl)

theorem exec_jumpWord (s : State) (imm : BitVec 21) :
    exec (.jumpWord imm) s = .next { s with corePc := jumpTarget s.corePc imm } := rfl

/-- Settles O46: the staged word decodes to the slot's whole offset, and the jump by it from the slot ends at the vector. -/
theorem resumeJumpReachesVector : Obligations.ResumeJumpReachesVector := by
  intro s index he hl hpc
  refine ⟨_, decode_resumeJumpWord he hl, ?_⟩
  rw [exec_jumpWord, jumpTarget, signExtend_ofInt_of_legal hl, add_jumpOffset hpc]

end Machine

end Sys2Proof
end

section
/-! SUPPORT. The round trips of spec/30_encoding.md (R90 to R105): per format, the fields of a word that is accepted determine it,
and the operands above a command code are read back from where they were put. -/

namespace Sys2Proof

/-! ### Debug-bus vectors (R93 to R97) -/

/-- A number of 52 bits is the sum of its three fields (R93). -/
theorem sum_fields {v : Nat} (h : v < 2 ^ 52) :
    (addressField v).toNat * 2 ^ 36 + ((dataField v).toNat * 2 ^ 2 + lowField v) = v := by
  simp only [addressField, dataField, lowField, BitVec.toNat_ofNat, Nat.shiftRight_eq_div_pow]
  omega

theorem lowField_lt (v : Nat) : lowField v < 4 := Nat.mod_lt v (by decide)

theorem assemble_fields {v : Nat} (h : v < 2 ^ 52) :
    assemble (WireOp.ofCode (lowField v)) (addressField v) (dataField v) = v := by
  rw [assemble_eq, WireOp.code_ofCode _ (lowField_lt v), sum_fields h]

theorem response_fields {v : Nat} (h : v < 2 ^ 52) : response (responseCode v) (addressField v) (dataField v) = v := by
  rw [response_eq, responseCode, ResultCode.code_ofCode _ (lowField_lt v), sum_fields h]

open Machine (requestInstr responseInstr)

theorem encode_requestInstr (p : Params) (op : WireOp) (a : DbusAddr) (d : DbusData) :
    encode p (requestInstr op a d) = ⟨.dbusReq, assemble op a d⟩ := by cases op <;> rfl

theorem encode_responseInstr (p : Params) (c : ResultCode) (a : DbusAddr) (d : DbusData) :
    encode p (responseInstr c a d) = ⟨.dbusRsp, response c a d⟩ := by cases c <;> rfl

theorem requestInstr_wellFormed (op : WireOp) (a : DbusAddr) (d : DbusData) :
    (requestInstr op a d).wellFormed = true := by cases op <;> rfl

theorem responseInstr_wellFormed (c : ResultCode) (a : DbusAddr) (d : DbusData) :
    (responseInstr c a d).wellFormed = true := by cases c <;> rfl

/-- A request word of 52 bits is the request row of its fields (R93, log 33). -/
theorem decodeRequest_of_lt {v : Nat} (h : v < 2 ^ 52) :
    decodeRequest v = .ok (requestInstr (WireOp.ofCode (lowField v)) (addressField v) (dataField v)) := by
  rw [decodeRequest, if_neg (Nat.not_le.2 h)]
  cases WireOp.ofCode (lowField v) <;> rfl

theorem decodeResponse_of_lt {v : Nat} (h : v < 2 ^ 52) :
    decodeResponse v = .ok (responseInstr (responseCode v) (addressField v) (dataField v)) := by
  rw [decodeResponse, if_neg (Nat.not_le.2 h)]
  cases responseCode v <;> rfl

theorem decodeRequest_assemble (op : WireOp) (a : DbusAddr) (d : DbusData) :
    decodeRequest (assemble op a d) = .ok (requestInstr op a d) := by
  rw [decodeRequest_of_lt (assemble_lt op a d)]
  simp

theorem decodeResponse_response (c : ResultCode) (a : DbusAddr) (d : DbusData) :
    decodeResponse (response c a d) = .ok (responseInstr c a d) := by
  rw [decodeResponse_of_lt (response_lt c a d)]
  simp

/-- An accepted request word is put together again from its fields. -/
theorem encode_of_decodeRequest {v : Nat} {i : Instr} (p : Params) (h : decodeRequest v = .ok i) :
    i.wellFormed = true ∧ encode p i = ⟨.dbusReq, v⟩ := by
  rcases Nat.lt_or_ge v (2 ^ 52) with hv | hv
  · obtain rfl := Except.ok.inj ((decodeRequest_of_lt hv).symm.trans h)
    exact ⟨requestInstr_wellFormed _ _ _, by rw [encode_requestInstr, assemble_fields hv]⟩
  · rw [decodeRequest, if_pos hv] at h
    cases h

theorem encode_of_decodeResponse {v : Nat} {i : Instr} (p : Params) (h : decodeResponse v = .ok i) :
    i.wellFormed = true ∧ encode p i = ⟨.dbusRsp, v⟩ := by
  rcases Nat.lt_or_ge v (2 ^ 52) with hv | hv
  · obtain rfl := Except.ok.inj ((decodeResponse_of_lt hv).symm.trans h)
    exact ⟨responseInstr_wellFormed _ _ _, by rw [encode_responseInstr, response_fields hv]⟩
  · rw [decodeResponse, if_pos hv] at h
    cases h

/-! ### Selectors and jump words (R91, R103) -/

theorem decodeSelector_dtminfo (p : Params) : decodeSelector p p.irDtminfo = .ok .selectDtminfo := if_pos rfl

/-- The two selectors differ (D4), so the second is not taken for the first. -/
theorem decodeSelector_dbus {p : Params} (h : p.wellFormed = true) : decodeSelector p p.irDbus = .ok .selectDbus := by
  have hne : p.irDbus ≠ p.irDtminfo := by
    simp only [Params.wellFormed, Bool.and_eq_true, decide_eq_true_eq] at h
    obtain ⟨⟨⟨⟨⟨hne, -⟩, -⟩, -⟩, -⟩, -⟩ := h
    exact hne.symm
  rw [decodeSelector, if_neg hne, if_pos rfl]

theorem encode_of_decodeSelector {p : Params} {v : Nat} {i : Instr} (h : decodeSelector p v = .ok i) :
    i.wellFormed = true ∧ encode p i = ⟨.irsel, v⟩ := by
  unfold decodeSelector at h
  split at h
  · next hv => cases h; exact ⟨rfl, by rw [encode, hv]⟩
  · split at h
    · next hv => cases h; exact ⟨rfl, by rw [encode, hv]⟩
    · cases h

theorem wellFormed_jumpWord {imm : BitVec 21} : (Instr.jumpWord imm).wellFormed = true ↔ imm.getLsbD 0 = false := by
  simp only [Instr.wellFormed, Bool.not_eq_true']

theorem encode_of_decodeJump {v : Nat} {i : Instr} (p : Params) (h : decodeJump v = .ok i) :
    i.wellFormed = true ∧ encode p i = ⟨.jump, v⟩ := by
  unfold decodeJump at h
  split at h
  · cases h
  next hv =>
  have hw : (BitVec.ofNat 32 v).toNat = v := by
    rw [BitVec.toNat_ofNat]
    omega
  split at h
  · next hl =>
    cases h
    exact ⟨wellFormed_jumpWord.2 (jumpImm_even _), by rw [encode, jumpBits_jumpImm _ (by rw [hw]; exact hl), hw]⟩
  · cases h

/-! ### Command operands (R105, log 12)

One lemma for each layout: a number holds the operands exactly if it has no bit above them and they are read back from it. -/

theorem eq_toNat_iff {w r : Nat} {x : BitVec w} : r = x.toNat ↔ r < 2 ^ w ∧ BitVec.ofNat w r = x := by
  constructor
  · rintro rfl
    exact ⟨x.isLt, by rw [BitVec.ofNat_toNat, BitVec.setWidth_eq]⟩
  · rintro ⟨h, rfl⟩
    rw [BitVec.toNat_ofNat, Nat.mod_eq_of_lt h]

theorem eq_boolToNat_iff {r : Nat} {f : Bool} : r = f.toNat ↔ r < 2 ∧ r.testBit 0 = f := by
  constructor
  · rintro rfl
    exact ⟨f.toNat_lt, by cases f <;> rfl⟩
  · rintro ⟨h, rfl⟩
    rw [Nat.toNat_testBit, Nat.pow_zero, Nat.div_one, Nat.mod_eq_of_lt h]

theorem WireOp.mod_eq_code_iff {r : Nat} {op : WireOp} : r % 2 ^ 2 = op.code ↔ WireOp.ofCode (r % 4) = op :=
  ⟨fun h => by rw [show r % 4 = op.code from h, WireOp.ofCode_code],
    fun h => (by rw [← h, WireOp.code_ofCode _ (Nat.mod_lt r (by decide))] : r % 4 = op.code)⟩

/-- A number in two parts, the lower one below `2 ^ k`. -/
theorem eq_or_iff {r hi lo k : Nat} (h : lo < 2 ^ k) : r = (hi <<< k) ||| lo ↔ r >>> k = hi ∧ r % 2 ^ k = lo := by
  rw [shiftLeft_or_eq_add _ _ k h, Nat.shiftRight_eq_div_pow, Nat.div_mod_unique (Nat.two_pow_pos k), Nat.add_comm,
    Nat.mul_comm, eq_comm, and_iff_left h]

theorem eq_or_toNat_iff {r hi k : Nat} {x : BitVec k} :
    r = (hi <<< k) ||| x.toNat ↔ r >>> k = hi ∧ BitVec.ofNat k r = x := by
  rw [eq_or_iff x.isLt, ← BitVec.toNat_inj, BitVec.toNat_ofNat]

theorem shiftRight_lt_iff {r k m : Nat} : r >>> k < 2 ^ m ↔ r < 2 ^ (k + m) := by
  rw [Nat.shiftRight_eq_div_pow, Nat.div_lt_iff_lt_mul (Nat.two_pow_pos k), Nat.pow_add, Nat.mul_comm]

theorem shiftLeft_or_shiftLeft (a b j k : Nat) : a <<< (j + k) ||| b <<< k = (a <<< j ||| b) <<< k := by
  rw [Nat.shiftLeft_or_distrib, Nat.shiftLeft_add]

/-- The operands of `write` and of `verify_word`: two fields. -/
theorem eq_fields_iff {r m k : Nat} {x : BitVec m} {y : BitVec k} :
    r = (x.toNat <<< k) ||| y.toNat ↔ r < 2 ^ (k + m) ∧ BitVec.ofNat m (r >>> k) = x ∧ BitVec.ofNat k r = y := by
  rw [eq_or_toNat_iff, eq_toNat_iff, shiftRight_lt_iff, and_assoc]

/-- The operands of `write_resume_jump`: a flag above a word. -/
theorem eq_flag_iff {r : Nat} {f : Bool} {i : Word} :
    r = (f.toNat <<< 32) ||| i.toNat ↔ r < 2 ^ 33 ∧ r.testBit 32 = f ∧ BitVec.ofNat 32 r = i := by
  rw [eq_or_toNat_iff, eq_boolToNat_iff, Nat.testBit_shiftRight, ← Nat.pow_one 2, shiftRight_lt_iff, and_assoc]

/-- The operands of `write_word`: a flag above two words. -/
theorem eq_flagWords_iff {r : Nat} {f : Bool} {v i : Word} :
    r = (f.toNat <<< 64) ||| (v.toNat <<< 32) ||| i.toNat ↔
      r < 2 ^ 65 ∧ r.testBit 64 = f ∧ BitVec.ofNat 32 (r >>> 32) = v ∧ BitVec.ofNat 32 r = i := by
  rw [shiftLeft_or_shiftLeft _ _ 32 32, eq_or_toNat_iff, eq_flag_iff, Nat.testBit_shiftRight, shiftRight_lt_iff, and_assoc,
    and_assoc]

/-- The operands of `scan`: data above address above operation. -/
theorem eq_scan_iff {r : Nat} {op : WireOp} {a : DbusAddr} {d : DbusData} :
    r = (d.toNat <<< 18) ||| (a.toNat <<< 2) ||| op.code ↔
      r < 2 ^ 52 ∧ BitVec.ofNat 34 (r >>> 18) = d ∧ BitVec.ofNat 16 (r >>> 2) = a ∧ WireOp.ofCode (r % 4) = op := by
  rw [shiftLeft_or_shiftLeft _ _ 16 2, eq_or_iff (k := 2) op.code_lt, eq_fields_iff, ← Nat.shiftRight_add, shiftRight_lt_iff,
    WireOp.mod_eq_code_iff, and_assoc, and_assoc]

/-! ### Command words (R105) -/

theorem commandWord_eq {v code r : Nat} (hc : v % 32 = code) (hr : v >>> 5 = r) : commandWord code r = ⟨.cmd, v⟩ :=
  congrArg (PortWord.mk .cmd) ((eq_or_iff (k := 5) (by omega)).2 ⟨hr, hc⟩).symm

/-- A command whose operands fit, and are read back from above its code. -/
theorem decode_encode_command {p : Params} {i : Instr} {code w r : Nat} (he : encode p i = commandWord code r)
    (hc : code < 32) (hr : r < 2 ^ w) (h : ∀ v, v % 32 = code → v >>> 5 = r → decodeCommand v = operands w r i) :
    decode p (encode p i) = .ok i := by
  rw [he]
  exact (h _ (commandWord_code code r hc) (commandWord_operands code r hc)).trans (operands_fit hr)

/-- Operands accepted above a command code are all of the word. -/
theorem encode_of_operands {p : Params} {i j : Instr} {v code w : Nat} (h : operands w (v >>> 5) j = .ok i)
    (hc : v % 32 = code) (hj : v >>> 5 < 2 ^ w → j.wellFormed = true ∧ ∃ r, encode p j = commandWord code r ∧ v >>> 5 = r) :
    i.wellFormed = true ∧ encode p i = ⟨.cmd, v⟩ := by
  unfold operands at h
  split at h
  · next hr =>
    obtain ⟨hw, r, he, hv⟩ := hj hr
    cases h
    exact ⟨hw, he.trans (commandWord_eq hc hv)⟩
  · cases h

theorem encode_of_noOperands {p : Params} {i j : Instr} {v code : Nat} (h : operands 0 (v >>> 5) j = .ok i)
    (hc : v % 32 = code) (hj : j.wellFormed = true) (he : encode p j = commandWord code 0) :
    i.wellFormed = true ∧ encode p i = ⟨.cmd, v⟩ :=
  encode_of_operands h hc fun hr => ⟨hj, 0, he, Nat.lt_one_iff.1 hr⟩

/-- What the command port accepts is the word of the command it decodes to (R105, R106). -/
theorem encode_of_decodeCommand {v : Nat} {i : Instr} (p : Params) (h : decodeCommand v = .ok i) :
    i.wellFormed = true ∧ encode p i = ⟨.cmd, v⟩ := by
  unfold decodeCommand at h
  split at h
  · next hc => exact encode_of_noOperands h hc rfl rfl
  · next hc => exact encode_of_noOperands h hc rfl rfl
  · next hc => exact encode_of_noOperands h hc rfl rfl
  · next hc => exact encode_of_operands h hc fun hr => ⟨rfl, _, rfl, eq_scan_iff.2 ⟨hr, rfl, rfl, rfl⟩⟩
  · next hc => exact encode_of_operands h hc fun hr => ⟨rfl, _, rfl, eq_toNat_iff.2 ⟨hr, rfl⟩⟩
  · next hc => exact encode_of_operands h hc fun hr => ⟨rfl, _, rfl, eq_fields_iff.2 ⟨hr, rfl, rfl⟩⟩
  · next hc => exact encode_of_operands h hc fun hr => ⟨rfl, _, rfl, eq_toNat_iff.2 ⟨hr, rfl⟩⟩
  · next hc => exact encode_of_operands h hc fun hr => ⟨rfl, _, rfl, eq_flagWords_iff.2 ⟨hr, rfl, rfl, rfl⟩⟩
  · next hc => exact encode_of_operands h hc fun hr => ⟨rfl, _, rfl, eq_fields_iff.2 ⟨hr, rfl, rfl⟩⟩
  · next hc => exact encode_of_operands h hc fun hr => ⟨rfl, _, rfl, eq_flag_iff.2 ⟨hr, rfl, rfl⟩⟩
  · next hc => exact encode_of_noOperands h hc rfl rfl
  · next hc => exact encode_of_noOperands h hc rfl rfl
  · next hc => exact encode_of_noOperands h hc rfl rfl
  · next hc => exact encode_of_noOperands h hc rfl rfl
  · next hc => exact encode_of_noOperands h hc rfl rfl
  · next hc => exact encode_of_noOperands h hc rfl rfl
  · cases h

/-- The codes above the sixteen commands (R105, R106; log 15). -/
theorem decodeCommand_unassigned {v : Nat} (h : 16 ≤ v % 32) :
    decodeCommand v = .error (.unassignedCommand (v % 32)) := by
  have hlt : v % 32 < 32 := Nat.mod_lt v (by decide)
  unfold decodeCommand
  generalize v % 32 = code at h hlt
  interval_cases code <;> rfl

/-- Settles O1: each format reads back the fields its encoding puts together; the two selectors differ by D4, and an even offset
is all that a jump word has to carry. -/
theorem decodeEncodeRoundTrip : Obligations.DecodeEncodeRoundTrip := by
  intro p i hp hi
  cases i with
  | dbusNop a d => exact decodeRequest_assemble .nop a d
  | dbusRead a d => exact decodeRequest_assemble .read a d
  | dbusWrite a d => exact decodeRequest_assemble .write a d
  | dbusConditionalWrite a d => exact decodeRequest_assemble .conditionalWrite a d
  | rspSuccess a d => exact decodeResponse_response .success a d
  | rspNoWrite a d => exact decodeResponse_response .noWrite a d
  | rspFailed a d => exact decodeResponse_response .failed a d
  | rspBusy a d => exact decodeResponse_response .busy a d
  | selectDtminfo => exact decodeSelector_dtminfo p
  | selectDbus => exact decodeSelector_dbus hp
  | attach | detach | readDtmInfo | examine | poll | halt | assertReset | deassertReset | deviceReset =>
    exact decode_encode_command rfl (by decide) (Nat.two_pow_pos 0) fun v hc ho => by simp only [decodeCommand, hc, ho]
  | scan op a d =>
    obtain ⟨hr, hd, ha, hop⟩ := (eq_scan_iff (op := op) (a := a) (d := d)).1 rfl
    exact decode_encode_command rfl (by decide) hr fun v hc ho => by simp only [decodeCommand, hc, ho, hd, ha, hop]
  | read a =>
    obtain ⟨hr, ha⟩ := (eq_toNat_iff (x := a)).1 rfl
    exact decode_encode_command rfl (by decide) hr fun v hc ho => by simp only [decodeCommand, hc, ho, ha]
  | write a d =>
    obtain ⟨hr, hd, ha⟩ := (eq_fields_iff (x := d) (y := a)).1 rfl
    exact decode_encode_command rfl (by decide) hr fun v hc ho => by simp only [decodeCommand, hc, ho, hd, ha]
  | readWord index =>
    obtain ⟨hr, hx⟩ := (eq_toNat_iff (x := index)).1 rfl
    exact decode_encode_command rfl (by decide) hr fun v hc ho => by simp only [decodeCommand, hc, ho, hx]
  | writeWord index value f =>
    obtain ⟨hr, hf, hv, hx⟩ := (eq_flagWords_iff (f := f) (v := value) (i := index)).1 rfl
    exact decode_encode_command rfl (by decide) hr fun v hc ho => by simp only [decodeCommand, hc, ho, hf, hv, hx]
  | verifyWord index expected =>
    obtain ⟨hr, he, hx⟩ := (eq_fields_iff (x := expected) (y := index)).1 rfl
    exact decode_encode_command rfl (by decide) hr fun v hc ho => by simp only [decodeCommand, hc, ho, he, hx]
  | writeResumeJump index f =>
    obtain ⟨hr, hf, hx⟩ := (eq_flag_iff (f := f) (i := index)).1 rfl
    exact decode_encode_command rfl (by decide) hr fun v hc ho => by simp only [decodeCommand, hc, ho, hf, hx]
  | jumpWord imm => exact decodeJump_jumpBits (wellFormed_jumpWord.1 hi)

/-- Settles O2: format by format, an accepted word is put together again from the fields read from it. -/
theorem encodeDecodeRoundTrip : Obligations.EncodeDecodeRoundTrip := by
  rintro p ⟨fmt, v⟩ i h
  cases fmt with
  | irsel => exact encode_of_decodeSelector h
  | dbusReq => exact encode_of_decodeRequest p h
  | dbusRsp => exact encode_of_decodeResponse p h
  | jump => exact encode_of_decodeJump p h
  | cmd => exact encode_of_decodeCommand p h

/-- Settles O3: each word of the list, decoded. -/
theorem specWordsDecode : Obligations.SpecWordsDecode := by
  unfold Obligations.SpecWordsDecode
  decide

/-- Settles O4: the vector is the sum of its fields, and an address below `2 ^ width` leaves it below `2 ^ (width + 36)`. -/
theorem requestVectorLayout : Obligations.RequestVectorLayout := by
  intro op a d width ha
  have hop := op.code_lt
  have hd := d.isLt
  rw [assemble_eq, Nat.pow_add]
  refine ⟨by omega, by omega, by omega, ?_⟩
  calc a.toNat * 2 ^ 36 + (d.toNat * 2 ^ 2 + op.code)
      < (a.toNat + 1) * 2 ^ 36 := by omega
    _ ≤ 2 ^ width * 2 ^ 36 := Nat.mul_le_mul_right _ ha

end Sys2Proof
end

section
/-! SUPPORT. The two staged words bit by bit (spec/30_encoding.md R98, R103), and single commands in closed form (40 R122; 42 R150;
43 R178; 44 R195). -/

namespace Sys2Proof.Machine

variable {s : State}

/-! ### The data of a word write and the jump word -/

theorem getLsbD_one_shiftLeft {w n : Nat} (hn : n < w) (k : Nat) : (1#w <<< n).getLsbD k = decide (n = k) := by
  rw [← BitVec.twoPow_eq, BitVec.getLsbD_twoPow, decide_eq_true hn, Bool.true_and]

/-- Bit by bit what a `write_word` sends (R98). -/
theorem getLsbD_wdata (value : Word) (f : Bool) {k : Nat} (hk : k < 34) :
    (wdata value f).getLsbD k = (value.getLsbD k || decide (32 = k) || (f && decide (33 = k))) := by
  have hint : (if f then 1#34 <<< 33 else 0#34).getLsbD k = (f && decide (33 = k)) := by
    cases f
    · exact BitVec.getLsbD_zero
    · exact getLsbD_one_shiftLeft (by decide) k
  rw [wdata, haltBit, intBit, BitVec.getLsbD_or, BitVec.getLsbD_or, hint, getLsbD_one_shiftLeft (by decide),
    BitVec.getLsbD_setWidth, decide_eq_true hk, Bool.true_and]

/-- Settles O38: the 32 bits of the word, then bits 32 and 33. -/
theorem wordDataLayout : Obligations.WordDataLayout := by
  intro value f
  refine ⟨BitVec.eq_of_getLsbD_eq fun k hk => ?_, ?_, ?_⟩
  · have h32 : 32 ≠ k := by omega
    have h33 : 33 ≠ k := by omega
    rw [BitVec.getLsbD_extractLsb', Nat.zero_add, getLsbD_wdata value f (by omega)]
    simp only [hk, h32, h33, decide_true, decide_false, Bool.true_and, Bool.and_false, Bool.or_false]
  · rw [getLsbD_wdata value f (by decide), decide_eq_true rfl, Bool.or_true, Bool.true_or]
  · rw [getLsbD_wdata value f (by decide), BitVec.getLsbD_of_ge value 33 (by decide)]
    simp

theorem extractLsb'_eq_iff {m m' n : Nat} {a b : Nat} {x : BitVec m} {y : BitVec m'} :
    x.extractLsb' a n = y.extractLsb' b n ↔ x.toNat / 2 ^ a % 2 ^ n = y.toNat / 2 ^ b % 2 ^ n := by
  rw [← BitVec.toNat_inj, BitVec.extractLsb'_toNat, BitVec.extractLsb'_toNat, Nat.shiftRight_eq_div_pow,
    Nat.shiftRight_eq_div_pow]

/-- Settles O44: the fields of the jump word as numbers; the example is evaluated. -/
theorem encodeJumpLayout : Obligations.EncodeJumpLayout := by
  refine ⟨fun p off h => ?_, by decide⟩
  rw [encodeJump_jalX0 h]
  generalize BitVec.ofInt 21 off = imm
  obtain ⟨h31, h12, h20, h21⟩ := jumpBits_fields imm
  have hlow := jumpBits_low imm
  refine ⟨extractLsb'_eq_iff.2 h31, extractLsb'_eq_iff.2 h21, extractLsb'_eq_iff.2 h20, extractLsb'_eq_iff.2 h12, ?_, ?_⟩
  · apply BitVec.eq_of_toNat_eq
    rw [BitVec.extractLsb'_toNat, Nat.shiftRight_eq_div_pow]
    show _ = 0
    omega
  · apply BitVec.eq_of_toNat_eq
    rw [BitVec.extractLsb'_toNat, Nat.shiftRight_zero]
    show _ = 0x6F
    omega

/-! ### Steps and commands -/

/-- Settles O5: the decoder has no command at these codes, and the step refuses what does not decode. -/
theorem unassignedCommandIsUndecodable : Obligations.UnassignedCommandIsUndecodable := by
  intro s v rest hc hv
  have hd : decode s.params ⟨.cmd, v⟩ = .error (.unassignedCommand (v % 32)) := decodeCommand_unassigned hv
  simp only [step, hc, hd]

/-- Settles O45: the target of the jump, written out. -/
theorem jumpWordMovesCorePc : Obligations.JumpWordMovesCorePc := exec_jumpWord

/-- Settles O20: both fields a scan returns stand below bit 36, and nothing else in its next state is read from the response. -/
theorem scanIgnoresResponseAddress : Obligations.ScanIgnoresResponseAddress := by
  intro s op a d v v' late rest t t' hv hr h h'
  have low (u : Nat) : responseCode (u % 2 ^ (s.addressBits.toNat + 36)) = responseCode (u % 2 ^ 36) ∧
      dataField (u % 2 ^ (s.addressBits.toNat + 36)) = dataField (u % 2 ^ 36) := by
    rw [responseCode_mod (by omega), responseCode_mod (by omega), dataField_mod (by omega), dataField_mod (by omega)]
    exact ⟨rfl, rfl⟩
  rw [scanDeliversResponse { s with answers := .ok v late :: rest } op a d v late rest hr rfl] at h
  rw [scanDeliversResponse { s with answers := .ok v' late :: rest } op a d v' late rest hr rfl] at h'
  obtain rfl := Host.Outcome.next.inj h
  obtain rfl := Host.Outcome.next.inj h'
  simp only [low, hv]

/-- Settles O34: the closed form of the DTM-info read. -/
theorem readDtmInfoStoresWidth : Obligations.ReadDtmInfoStoresWidth :=
  fun _ _ _ _ ho hs hw => finish_ok (f := fun w => .addressBits w) (readDtmInfoProc_ok ho hs hw)

/-- Settles O42: a legal offset makes it the word write of the encoded jump. -/
theorem writeResumeJumpStagesJump : Obligations.WriteResumeJumpStagesJump := by
  rintro s index f bs rest x off rfl heven hlo hhi ⟨hr, hi⟩ hb hl hx hs
  have e : writeResumeJumpProc index f s = writeWordProc index (resumeJumpWord s.params index) f s :=
    writeResumeJumpProc_legal hr.1 hi (jumpOffsetLegal_iff.2 ⟨heven, hlo, hhi⟩)
  exact finish_ok (f := fun _ => .unit) (e.trans (writeWordProc_ok hr hi hb hl hx hs))

theorem requireJump_illegal {off : Int} (h : jumpOffsetLegal off = false) :
    requireJump off s = (.refused (.jumpRange off), s) := by
  simp only [requireJump, h, Bool.false_eq_true, if_false, refuse_apply]

/-- Settles O43: the session and the index are tested first, and the offset before anything is driven. -/
theorem jumpOutOfRangeRefused : Obligations.JumpOutOfRangeRefused := by
  intro s index f off heq hoff ho hi
  obtain rfl : off = jumpOffset s.params index := heq
  have hill : jumpOffsetLegal (jumpOffset s.params index) = false := by
    rw [← Bool.not_eq_true, jumpOffsetLegal_iff]
    omega
  have e : writeResumeJumpProc index f s = (.refused (.jumpRange (jumpOffset s.params index)), s) := by
    rw [writeResumeJumpProc, andThen_ok (requireSession_open ho), andThen_ok (requireIndex_legal hi),
      andThen_refused (requireJump_illegal hill)]
  exact finish_refused (f := fun _ => .unit) e

/-- The status bits of the 34 data bits, in the register value read (R99). -/
theorem haltAck_zeroExtend (d : DbusData) : haltAck (d.zeroExtend 64) = d.getLsbD 32 := by
  simp [haltAck, haltBit]

theorem interruptPending_zeroExtend (d : DbusData) : interruptPending (d.zeroExtend 64) = d.getLsbD 33 := by
  simp [interruptPending, intBit]

/-- Settles O49: the closed form of the read, and its data decoded in the state it leaves. -/
theorem pollDecodesStatus : Obligations.PollDecodesStatus := by
  intro s pre bs rest y ho hz hp hb hl hy hs
  have e : pollProc s = decodeStatus ((answerData s y).zeroExtend 64) (s.readDone (pollAddress s) pre bs y rest) := by
    rw [pollProc, andThen_ok (requireSession_open ho), andThen_ok (readProc_ok ho hz hp hb hl hy hs)]
  rw [← haltAck_zeroExtend, ← interruptPending_zeroExtend]
  exact finish_ok (f := fun l => .lifecycle l) e

end Sys2Proof.Machine
end

section
/-! SUPPORT. `examine` run to its end (spec/44_lifecycle.md R193, R194): six words staged in a Debug RAM that has room for them, and
the cache its last scan leaves (10_state.md R25). -/

namespace Sys2Proof.Machine

variable {s t : State}

/-! ### The cache behind a run of scans -/

theorem lastRequest_of_shiftsOf_nil : ∀ {evs : List PortEvent}, shiftsOf evs = [] → lastRequest evs = none
  | [], _ => rfl
  | .select _ :: evs, h | .flush _ :: evs, h | .hook _ :: evs, h => lastRequest_of_shiftsOf_nil (evs := evs) h

/-- The last data scan of a record, unless it is the DTM-info register's, is its last debug-bus request. -/
theorem lastRequest_of_shiftsOf {n out : Nat} (hn : n ≠ 32) : ∀ {evs : List PortEvent},
    (shiftsOf evs).getLast? = some (n, out) → lastRequest evs = some (WireOp.ofCode (lowField out), addressField out)
  | [], h => by simp [shiftsOf] at h
  | .select _ :: evs, h | .flush _ :: evs, h | .hook _ :: evs, h => lastRequest_of_shiftsOf hn (evs := evs) h
  | .shift m o :: evs, h => by
    rcases hs : shiftsOf evs with _ | ⟨x, xs⟩
    · rw [shiftsOf, hs, List.getLast?_singleton, Option.some.injEq, Prod.mk.injEq] at h
      obtain ⟨rfl, rfl⟩ := h
      rw [lastRequest, lastRequest_of_shiftsOf_nil hs, if_neg hn, Option.none_or]
    · rw [shiftsOf, hs, List.getLast?_cons_cons, ← hs] at h
      rw [lastRequest, lastRequest_of_shiftsOf hn h, Option.some_or]

/-- An instruction whose last data scan is a request to the debug bus leaves the cache showing that request (R25). -/
theorem exec_cache_of_shiftsOf {i : Instr} {evs : List PortEvent} {n : Nat} {op : WireOp} {a : DbusAddr} {d : DbusData}
    (hi : i ∉ [.attach, .detach]) (h : exec i s = .next t) (ht : t.portTrace = s.portTrace ++ evs) (hn : n ≠ 32)
    (he : (shiftsOf evs).getLast? = some (n, assemble op a d)) : t.lastAddress = some a ∧ t.lastOp = lastOpOf op := by
  obtain ⟨evs', ht', -, hc⟩ := (exec_frame h).trace
  obtain rfl := List.append_cancel_left (ht.symm.trans ht')
  simpa [CacheTracks, lastRequest_of_shiftsOf hn he] using hc hi

/-! ### `examine` with room for its six words -/

/-- Words that `examine` can stage in their slots are staged, and `examined` set, when the last slot's jump is legal (R178,
R193). -/
theorem stageRest_of_staged {p : Params} (hj : jumpOffsetLegal (jumpOffset p 5#32) = true) :
    ∀ {words : List (Word × Word)} {s t : State}, words <:+ examineWords p → s.params = p →
      stageWords words s = (.ok (), t) → stageRest words s = (.ok (), t.setExamined)
  | [], _, _, _, _, h => by
    cases h
    rfl
  | (index, value) :: words, s, t, hw, hp, h => by
    obtain ⟨_, u, hwrite, h⟩ := andThen_ok_inv h
    obtain ⟨_, x, hverify, h⟩ := andThen_ok_inv h
    obtain ⟨ho, hi⟩ := writeWordProc_inv hwrite
    have hjump : words = [] → jumpOffsetLegal (jumpOffset p index) = true := by
      rintro rfl
      have hlast := hw.getLast (by simp)
      simp only [examineWords, List.getLast_singleton, List.getLast_append_singleton, Prod.mk.injEq] at hlast
      rw [hlast.1]
      exact hj
    rw [stageRest_cons hw hp ho hi hjump, andThen_ok hwrite, andThen_ok hverify]
    exact stageRest_of_staged hj ((List.suffix_cons _ _).trans hw)
      ((verifyWordProc_frame hverify).params.trans ((writeWordProc_frame hwrite).params.trans hp)) h

/-- Each of the six words has its slot in a Debug RAM of six words that the bus reaches and the mirror holds. -/
theorem examineWords_slots (ho : SessionOpen s) (hbus : 5 < 2 ^ s.addressBits.toNat) (h6 : 6 ≤ s.scratchSize.toNat)
    (hc : s.scratchSize.toNat ≤ s.params.mirrorCapacity) :
    ∀ word ∈ examineWords s.params,
      BusReady s (slotAddress word.1) ∧ word.1 < s.scratchSize ∧ word.1.toNat < s.params.mirrorCapacity := by
  intro word hm
  have hi : word.1.toNat < 6 := examineWords_take_index (Nat.le_refl 6) hm
  have hz : s.addressBits ≠ 0#8 := fun hz => by simp [hz] at hbus
  exact ⟨⟨ho, hz, by rw [slotAddress_toNat (by omega)]; omega⟩, by rw [BitVec.lt_def]; omega, by omega⟩

/-- The geometry `examine` stored is the width it read (R122). -/
theorem InfoRead.addressBits_toNat {w : Nat} {pre rest : List Answer} {y : Answer} (h : InfoRead s t w pre y rest)
    (hw : w ≤ 16) : t.addressBits.toNat = w := by
  rw [h.frame.addressBits, BitVec.toNat_ofNat]
  omega

/-- A module with room for the six words, in a session whose bus reaches them: each is staged and verified, and `examined` is set
(R193). -/
theorem stageRest_full {rs more : List Answer} (ho : SessionOpen s) (hbus : 5 < 2 ^ s.addressBits.toNat)
    (h6 : 6 ≤ s.scratchSize.toNat) (hc : s.scratchSize.toNat ≤ s.params.mirrorCapacity)
    (hj : jumpOffsetLegal (jumpOffset s.params 5#32) = true) (hl : rs.length = 18) (hf : ∀ r ∈ rs, FinalAnswer s r)
    (hs : s.answers = rs ++ more) :
    ∃ u evs, stageRest (examineWords s.params) s = (.ok (), u.setExamined) ∧ StagingFrame s u ∧ u.answers = more ∧
      u.scratchMirror = (examineWords s.params).foldl (fun m word => m.set word.1.toNat word.2) s.scratchMirror ∧
      u.log = s.log ++ stagedLog s (examineWords s.params) rs ∧
      u.scratchValidMask = stagedMask s (examineWords s.params) rs s.scratchValidMask ∧
      u.portTrace = s.portTrace ++ evs ∧
      shiftsOf evs = (examineWords s.params).flatMap (stagedRequests s.addressBits.toNat) := by
  obtain ⟨u, evs, e, h⟩ := stageWords_prefix [] (examineWords s.params) s rs more ho (examineWords_slots ho hbus h6 hc) hl hf hs
  rw [List.append_nil] at e
  exact ⟨u, evs, stageRest_of_staged hj (List.suffix_refl _) rfl e, h⟩

/-- From the info register of a module with room for the six words `examine` stores its size and runs to its end (R193). -/
theorem InfoRead.full {w : Nat} {pre rs more : List Answer} {y : Answer} {info : BitVec 64} {size : Word}
    (h : InfoRead s t w pre y (rs ++ more)) (hw16 : w ≤ 16) (hbus : 5 < 2 ^ w) (hsize : size = infoScratchSize s.params info)
    (ha : infoAuthType s.params info = 0#2) (h6 : 6 ≤ size.toNat) (hc : size.toNat ≤ s.params.mirrorCapacity)
    (hj : jumpOffsetLegal (jumpOffset s.params 5#32) = true) (hl : rs.length = 18) (hf : ∀ r ∈ rs, FinalAnswer s r) :
    ∃ u evs, examineFrom info t = (.ok (), u.setExamined) ∧ StagingFrame (t.setScratchSize size) u ∧ u.answers = more ∧
      u.scratchMirror = (examineWords s.params).foldl (fun m word => m.set word.1.toNat word.2) s.scratchMirror ∧
      u.log = t.log ++ stagedLog s (examineWords s.params) rs ∧
      u.scratchValidMask = stagedMask s (examineWords s.params) rs s.scratchValidMask ∧
      u.portTrace = t.portTrace ++ evs ∧ shiftsOf evs = (examineWords s.params).flatMap (stagedRequests w) := by
  have hp : t.params = s.params := h.frame.params
  have hbits := h.addressBits_toNat hw16
  have hacc : acceptInfo info t = (.ok (), t.setScratchSize size) := by
    rw [hsize, ← hp]
    exact acceptInfo_ok (by rw [hp, ha]) (by rw [hp, ← hsize]; exact hc)
  have hfull := stageRest_full (s := t.setScratchSize size) h.frame.session
    (by rw [State.setScratchSize_addressBits, hbits]; exact hbus) h6 (by rw [State.setScratchSize_params, hp]; exact hc)
    (by rw [State.setScratchSize_params, hp]; exact hj) hl
    (fun r hr => (hf r hr).any _) h.answers
  rw [show examineFrom info t = stageRest (examineWords s.params) (t.setScratchSize size) by
    rw [examineFrom_stageRest hacc rfl, hp]]
  simpa only [State.setScratchSize_params, State.setScratchSize_scratchMirror, State.setScratchSize_scratchValidMask,
    State.setScratchSize_log, State.setScratchSize_portTrace, State.setScratchSize_addressBits, hp, hbits, h.mirror, h.mask,
    stagedLog_any s, stagedMask, stagedValid_any s] using hfull

/-- The requests of a completed `examine` end with the data phase of the last verification (R194). -/
theorem examineRequests_getLast? (p : Params) (w : Nat) (hit : Bool) :
    ((32, 0) :: examineRequests p w hit).getLast? = some (w + 36, assemble .read 0#16 0#34) := by
  cases hit <;> rfl

/-- Settles O55: the info register read and accepted, then the six words in closed form; the cache is that of the last request. -/
theorem examineStagesProbe : Obligations.ExamineStagesProbe := by
  intro s v late pre rs rest y w size info ho hx hs hpre hrs hfpre hy hfrs hw hw16 hbus hia hinfo ha hsize h6 hc hj hlen
  have hw0 : w ≠ 0 := by
    rintro rfl
    simp at hbus
  obtain ⟨t, hexam, hread⟩ := examineProc_info ho hx hs hpre hfpre hy hw hw16 hw0 hia
  rw [← hinfo] at hexam
  obtain ⟨evs, htrace, hshifts⟩ := hread.trace
  obtain ⟨u, evs', e, g, hans, hmirror, hlog, hmask, htrace', hshifts'⟩ := hread.full hw16 hbus hsize ha h6 hc hj hrs hfrs
  have hexec : exec .examine s = .next (u.setExamined.setResult (.ok .unit)) := finish_ok (hexam.trans e)
  have ht : u.portTrace = s.portTrace ++ (evs ++ evs') := by rw [htrace', htrace, List.append_assoc]
  have hrequests : shiftsOf (evs ++ evs') = (32, 0) :: examineRequests s.params w (cacheHit s s.params.infoAddr) := by
    rw [shiftsOf_append, hshifts, hshifts', examineRequests_eq]
    rfl
  obtain ⟨haddr, hop⟩ := exec_cache_of_shiftsOf (by simp) hexec ht (show w + 36 ≠ 32 by omega)
    (by rw [hrequests, examineRequests_getLast?])
  have hm := hmirror.trans (foldl_set_examineWords (n := 6) s.params (Nat.le_refl 6) (by omega))
  refine ⟨_, _, hexec, rfl, rfl, g.session.2, g.lifecycle.trans hread.frame.lifecycle, g.irSelect.trans hread.frame.irSelect,
    g.addressBits.trans hread.frame.addressBits, g.scratchSize, haddr, hop, hans, ht, hrequests,
    (congrArg (List.take 6) hm :), (congrArg (List.drop 6) hm :), hlog.trans (by rw [hread.log]), fun hv => ?_⟩
  have hvalid : (stagedValid s (examineWords s.params) rs).length = 6 := stagedValid_length s _ rs hrs
  have hk := hmask.trans (stagedMask_examineWords (s := s) (n := 6) s.params (Nat.le_refl 6) hrs (by omega))
  exact ⟨(congrArg (List.take 6) hk).trans (List.take_left' hvalid),
    (congrArg (List.drop 6) hk).trans (List.drop_left' hvalid)⟩

end Sys2Proof.Machine
end

section
/-! SUPPORT. The DTM-info scan that does not end normally (spec/40_jtag_select_dtm_info.md R122, R123; 60_exceptions.md R222), and the
selector scans by themselves (R120, R121). -/

namespace Sys2Proof.Machine

variable {s t : State} {rest : List Answer}

/-- Settles O33: either selector row is the port call and nothing else. -/
theorem selectorsOnlyQueue : Obligations.SelectorsOnlyQueue := fun s =>
  ⟨(rfl : exec .selectDtminfo s = .next (s.portSelect .dtminfo)), (rfl : exec .selectDbus s = .next (s.portSelect .dbus))⟩

/-! ### `read_dtm_info` that stops, and the two commands that stop with it -/

/-- The DTM-info scan on a scripted answer. -/
theorem dtmScanned_of_answers {a : Answer} (hs : s.answers = a :: rest) (r : IrSelect) :
    s.dtmScanned r = { s with
      scanQueue := [],
      portTrace := s.portTrace ++ [.select .dtminfo, .shift 32 0, .select .dbus, .flush a],
      answers := rest, timeoutExpired := a.late, irSelect := r } := by
  simp [State.dtmScanned, State.nextAnswer_of_answers hs, hs]

/-- A width above 16 is refused after the selector is restored (R122, R123). -/
theorem readDtmInfoProc_range {v : Nat} {late : Bool} (ho : SessionOpen s) (hs : s.answers = .ok v late :: rest)
    (hw : 16 < dtmAddressBits s.params (v % 2 ^ 32)) :
    readDtmInfoProc s = (.refused (.geometryRange (dtmAddressBits s.params (v % 2 ^ 32))), s.dtmScanned .dbus) := by
  rw [readDtmInfoProc, andThen_ok (requireSession_open ho)]
  simp only [State.portSelect_nextAnswer, State.portShift_nextAnswer, State.nextAnswer_of_answers hs, dtmScanned_eq,
    storeAddressBits, if_pos hw, refuse_apply]

/-- A failed flush is fatal and leaves the selector unknown (R122, R222). -/
theorem readDtmInfoProc_transport (ho : SessionOpen s) (hs : s.answers = .err :: rest) :
    readDtmInfoProc s = (.err .transportError, (s.dtmScanned .unknown).recordFault .transportError) := by
  rw [readDtmInfoProc, andThen_ok (requireSession_open ho)]
  simp only [State.portSelect_nextAnswer, State.portShift_nextAnswer, State.nextAnswer_of_answers hs, dtmScanned_eq,
    raiseFatal_apply]

/-- `examine` of a session not examined begins with `read_dtm_info`, and a stop there is its own (R11, R193). -/
theorem examineProc_dtmInfo_stop {e : Stop} (ho : SessionOpen s) (hx : s.examined = false)
    (h : readDtmInfoProc s = (e.res, t)) : examineProc s = (e.res, t) := by
  rw [examineProc_start ho hx, examineBody, andThen_stop h]

/-- Both commands that read the geometry end as `read_dtm_info` stops. -/
theorem exec_dtmInfo_stop {i : Instr} {e : Stop} (hi : i = .readDtmInfo ∨ (i = .examine ∧ s.examined = false))
    (ho : SessionOpen s) (h : readDtmInfoProc s = (e.res, t)) : exec i s = .next (t.setResult e.result) := by
  obtain rfl | ⟨rfl, hx⟩ := hi
  · exact finish_stop h
  · exact finish_stop (examineProc_dtmInfo_stop ho hx h)

/-- Settles O35: the two ways `read_dtm_info` stops after its scan, each in closed form. -/
theorem readDtmInfoFailures : Obligations.ReadDtmInfoFailures := by
  intro s i rest hi ho
  constructor
  · intro v late hs hw
    rw [exec_dtmInfo_stop (e := .refused _) hi ho (readDtmInfoProc_range ho hs hw), dtmScanned_of_answers hs]
    rfl
  · intro hs
    rw [exec_dtmInfo_stop (e := .err _) hi ho (readDtmInfoProc_transport ho hs), dtmScanned_of_answers hs]
    simp [State.recordFault, State.setResult, Stop.result, ho.2, Answer.late]

end Sys2Proof.Machine
end

section
/-! SUPPORT. The request and response rows as instructions of their own (spec/41_dbus_wire_ops.md R130 to R139; logs 9, 10), and what
a cache miss reads from a device that keeps `A_PIPELINE` and `A_STATUS_BITS` (R132, R140; 44_lifecycle.md R195). -/

namespace Sys2Proof.Machine

variable {s : State} {rest : List Answer}

/-! ### Requests -/

/-- A request row is the `scan` command of its request (R130). -/
theorem exec_requestInstr (op : WireOp) (a : DbusAddr) (d : DbusData) (s : State) :
    exec (requestInstr op a d) s = exec (.scan op a d) s := by cases op <;> rfl

/-- Settles O16: a request row is a `scan`, and the scan is answered. -/
theorem requestRowsScan : Obligations.RequestRowsScan := by
  intro s op a d v late rest hr hs
  rw [exec_requestInstr]
  exact scanDeliversResponse s op a d v late rest hr hs

/-- Settles O17: the failed scan in closed form; no kind was recorded before, so `TransportError` is. -/
theorem scanTransportError : Obligations.ScanTransportError := by
  intro s i op a d rest hi hr hs
  have hf : s.fault = none := hr.1.2
  refine exec_scanOf hi fun f => (finish_err (scanProc_err hr (State.nextAnswer_of_answers hs))).trans ?_
  rw [State.scanned_scripted hs]
  simp [State.recordFault, State.setResult, exchange, busWidth, Answer.late, hf]

/-! ### Responses -/

variable {c : ResultCode} {d : DbusData} {l : RetryLoop}

/-- The address field of a response row is not read (R97). -/
theorem exec_responseInstr (c : ResultCode) (a : DbusAddr) (d : DbusData) (s : State) :
    exec (responseInstr c a d) s = takeResponse c d s := by cases c <;> rfl

/-- An open loop has `MAX_RETRIES - retries` scans left for the response it receives (R152). -/
theorem receive_open (h : s.retry = some l) : receive c d s = respond (s.params.maxRetries - l.retries) c d s := by
  simp only [receive, retriesLeft, h]

/-- Settles O29: no loop is open, so the response is handed back. -/
theorem bareResponseIsReturned : Obligations.BareResponseIsReturned := fun s c a d hr =>
  (exec_responseInstr c a d s).trans (takeResponse_bare hr c d)

/-- Settles O30: a terminal response ends the loop however many scans it has left. -/
theorem terminalResponseEndsLoop : Obligations.TerminalResponseEndsLoop := fun s c a d _ hl hc =>
  (exec_responseInstr c a d s).trans (finish_ok ((receive_open hl).trans (respond_terminal hl hc)))

/-- BUSY in a loop that is at its ceiling or out of time gives the request up (R152, R227, D11). -/
theorem receive_busy_givesUp (h : s.retry = some l) (hend : s.params.maxRetries ≤ l.retries ∨ timedOut s = true) :
    receive .busy d s =
      (.err (.deviceUnresponsive l.op l.address), (s.setRetry none).recordFault (.deviceUnresponsive l.op l.address)) := by
  rw [receive_open h]
  rcases hend with hceiling | htime
  · rw [Nat.sub_eq_zero_of_le hceiling, respond_ceiling h]
  · exact respond_timeout h htime

/-- BUSY in a loop with a scan to spare is one more turn of that loop, its retry counted (R139, R152). -/
theorem receive_busy_again {n : Nat} (h : s.retry = some l) (ht : timedOut s = false)
    (hn : s.params.maxRetries - l.retries = n + 1) :
    receive .busy d s =
      loopTurn l.op l.address l.dataOut n (s.setRetry (some { l with retries := l.retries + 1 })) := by
  rw [receive_open h, hn, respond_again h ht]
  rfl

/-- Settles O32: the loop gives up before anything is driven, and its kind is the first recorded. -/
theorem busyResponseAtCeilingIsFatal : Obligations.BusyResponseAtCeilingIsFatal := by
  intro s a d l hl hf hend
  refine (finish_err (p := receive .busy d) (receive_busy_givesUp hl hend)).trans ?_
  simp [State.recordFault, State.setRetry, State.setResult, hf]

/-- Settles O31: the BUSY received is one turn of the loop, and the turns after it are those of R152 on the answers to come. -/
theorem busyResponseReissuesRequest : Obligations.BusyResponseReissuesRequest := by
  intro s a d l bs rest x c hl hr ht hb hlen hc hne hs
  obtain ⟨n, hn⟩ : ∃ n, s.params.maxRetries - l.retries = n + 1 := ⟨s.params.maxRetries - l.retries - 1, by omega⟩
  have hturns := loopTurn_terminal (dataOut := l.dataOut) bs (s.setRetry (some { l with retries := l.retries + 1 }))
    (l.retries + 1) n hr rfl hb (by omega) hc hne hs
  exact finish_ok (p := receive .busy d) ((receive_busy_again hl ht hn).trans hturns)

/-! ### A cache miss under the environment assumptions -/

variable {a : DbusAddr} {x y : Answer} {dev : DeviceView}

/-- A delivered debug-bus scan on the record is one exchange with the device. -/
theorem traffic_exchange {op : WireOp} (hx : answerCode s x = some c) (evs : List PortEvent) :
    traffic (exchange s op a d x ++ evs) = .dbus op a d c (answerData s x) :: traffic evs := by
  obtain ⟨v, late, rfl, rfl⟩ := answerCode_ok hx
  simp [exchange, traffic, answerData, answerVector]

/-- On a miss one final answer is the whole address phase (R153). -/
theorem addressPhaseAnswers_miss (hr : BusReady s a) (hc : cacheHit s a = false) (hx : FinalAnswer s x) :
    AddressPhaseAnswers s a [x] :=
  .inr ⟨hc, hr.2.2, [], x, rfl, by simp, Nat.zero_le _, hx⟩

/-- The traffic of a read of two scans: the READ of the address, then the READ of address 0 (R153). -/
theorem traffic_readDone {c' : ResultCode} (hx : answerCode s x = some c) (hy : answerCode s y = some c') :
    traffic ((s.readDone a [x] [] y rest).portTrace.drop s.portTrace.length) =
      [.dbus .read a 0#34 c (answerData s x), .dbus .read 0#16 0#34 c' (answerData s y)] := by
  have hrecord : (s.readDone a [x] [] y rest).portTrace.drop s.portTrace.length =
      exchange s .read a 0#34 x ++ (exchange s .read 0#16 0#34 y ++ []) := by
    simp [State.readDone, exchanges]
  rw [hrecord, traffic_exchange hx, traffic_exchange hy, traffic]

/-- Under `A_PIPELINE` the second answer of such a read carries the content of the address when the first was given (R132). -/
theorem answerData_of_pipeline (hx : FinalAnswer s x) (hy : FinalAnswer s y)
    (h : APipeline dev (traffic ((s.readDone a [x] [] y rest).portTrace.drop s.portTrace.length))) :
    answerData s y = (dev.before 0).content a := by
  obtain ⟨c, hcx, hnx⟩ := hx.code
  obtain ⟨c', hcy, hny⟩ := hy.code
  rw [traffic_readDone hcx hcy] at h
  exact h 0 _ _ _ _ _ _ _ _ _ rfl hnx rfl hny

/-- Settles O59: the read in closed form; its value is the data of its second answer. -/
theorem readReturnsRegisterUnderPipeline : Obligations.ReadReturnsRegisterUnderPipeline := by
  intro s t a x y rest dev hr hc hx hy hs ht hp
  have hread : exec (.read a) s = .next ((s.readDone a [x] [] y rest).setResult _) :=
    finish_ok (readProc_ok (bs := []) hr.1 hr.2.1 (addressPhaseAnswers_miss hr hc hx) (by simp) (Nat.zero_le _) hy hs)
  obtain rfl := Host.Outcome.next.inj (hread.symm.trans ht)
  have hdata : answerData s y = (dev.before 0).content a := answerData_of_pipeline (rest := rest) hx hy hp
  rw [← hdata]
  rfl

/-- The register `poll` reads is one that carries the status bits (R196, R140). -/
theorem pollAddress_carriesStatus (s : State) : pollAddress s < lowRegLimit ∨ pollAddress s = s.params.ctrlAddr := by
  have hzero : 0#16 < lowRegLimit := by decide
  unfold pollAddress
  split
  · split
    · assumption
    · exact .inl hzero
  · exact .inl hzero

/-- Settles O60: the status decoded is that of the second answer's data, whose two bits `A_STATUS_BITS` gives. -/
theorem pollSeesDeviceStatus : Obligations.PollSeesDeviceStatus := by
  intro s t x y rest dev hr hc hx hy hs ht hp hstatus
  have hpoll := pollDecodesStatus s [x] [] rest y hr.1 hr.2.1 (addressPhaseAnswers_miss hr hc hx) (by simp)
    (Nat.zero_le _) hy hs
  obtain rfl := Host.Outcome.next.inj (hpoll.symm.trans ht)
  have hdata : answerData s y = (dev.before 0).content (pollAddress s) := answerData_of_pipeline (rest := rest) hx hy hp
  obtain ⟨hhalt, hint⟩ := hstatus 0 _ (pollAddress_carriesStatus s)
  rw [← hhalt, ← hint, ← hdata]
  rfl

end Sys2Proof.Machine
end

section
/-! SUPPORT. The engine's commands (spec/42_dbus_access_engine.md R150 to R156): a `read` or `write` that ends normally, and the loops that
stop, by an address out of range, BUSY to the ceiling or a failed flush, each ending whatever command had come to it (R11, R222, R227,
R231). -/

namespace Sys2Proof.Machine

variable {s s1 t : State} {i : Instr} {a : DbusAddr}

/-- Settles O23: the write loop in closed form; its terminal code goes no further than the log. -/
theorem writeRetriesUntilAccepted : Obligations.WriteRetriesUntilAccepted := by
  intro s a v bs rest x hr hb hl hx hs
  obtain ⟨c, hc, hne⟩ := hx.code
  exact finish_ok (writeProc_ok hr hb hl hc hne hs)

/-- Settles O25: the read in closed form, on a hit and on a miss. -/
theorem readRunsItsPhases : Obligations.ReadRunsItsPhases := by
  intro s a pre bs rest y ho hz hp hb hl hy hs
  exact finish_ok (readProc_ok ho hz hp hb hl hy hs)

/-- A command whose `read` misses the cache ends as the address phase stops, and the data phase does not follow (R11, R154). -/
theorem exec_addressPhase_stops {e : Stop} (h : ComesToRead s i s1 a) (hc : cacheHit s1 a = false) (ho : SessionOpen s)
    (ho1 : SessionOpen s1) (hr : scanRetry .read a 0#34 s1 = (e.res, t)) : exec i s = .next (t.setResult e.result) := by
  refine exec_read_stops h ho ho1 ?_
  cases e with
  | err k => exact readProc_missErr hc hr
  | refused k => exact readProc_missRefused hc hr

/-- Settles O19: a scan, an address phase and a write loop are each refused at the range test. -/
theorem addressOutOfRangeRefused : Obligations.AddressOutOfRangeRefused := by
  intro s s1 i op a d hi ho ho1 hr hz hrange
  rcases hi with ⟨rfl, hscan⟩ | ⟨hread, hmiss⟩ | hwrite
  · exact exec_scanOf hscan fun f => finish_refused (scanProc_range ho1 hz hrange)
  · exact exec_addressPhase_stops (e := .refused _) hread hmiss ho ho1 (scanRetry_range ho1 hr hz hrange)
  · exact exec_write_stops (e := .refused _) hwrite ho ho1 (scanRetry_range ho1 hr hz hrange)

/-- Settles O24: the loop that gives up ends the command, as a write loop or as an address phase. -/
theorem busyToTheCeilingIsFatal : Obligations.BusyToTheCeilingIsFatal := by
  intro s s1 i a v bs rest x ho hr hg hs
  exact ⟨fun hwrite => exec_write_stops (e := .err _) hwrite ho hr.1 (scanRetry_givesUp hr hg hs),
    fun hread hmiss => exec_addressPhase_stops (e := .err _) hread hmiss ho hr.1 (scanRetry_givesUp hr hg hs)⟩

/-- Settles O26: the `read` whose data phase gives up ends the command. -/
theorem busyDataPhaseIsFatal : Obligations.BusyDataPhaseIsFatal := by
  intro s s1 i a pre bs rest y hread ho ho1 hz hp hg hs
  exact exec_read_stops (e := .err _) hread ho ho1 (readProc_givesUp ho1 hz hp hg hs)

/-- Settles O27: the failed flush ends the loop and the command, as a write loop, an address phase or a data phase. -/
theorem transportErrorShortCircuits : Obligations.TransportErrorShortCircuits := by
  refine ⟨fun s s1 i a v bs rest ho hr hb hl hs => ⟨fun hwrite => ?_, fun hread hmiss => ?_⟩,
    fun s s1 i a pre bs rest hread ho ho1 hz hp hb hl hs => ?_⟩
  · exact exec_write_stops (e := .err _) hwrite ho hr.1 (scanRetry_transport hr hb hl hs)
  · exact exec_addressPhase_stops (e := .err _) hread hmiss ho hr.1 (scanRetry_transport hr hb hl hs)
  · exact exec_read_stops (e := .err _) hread ho ho1 (readProc_transport ho1 hz hp hb hl hs)

end Sys2Proof.Machine
end

section
/-! SUPPORT. How many data scans each instruction can drive (spec/42 R157, 70 R278), from the bounds of the shared procedures. -/

namespace Sys2Proof.Machine

variable {s t : State}

namespace ScansWithin

variable {α β : Type} {n m : Nat}

/-- One procedure after another, in a state where the first's bound is its own: that of a hook call rests on its script. -/
theorem andThen {p : Proc α} {f : α → Proc β} (hp : ScansWithin n s (p s).2)
    (hf : ∀ a, ScansWithin m (p s).2 (f a (p s).2).2) : ScansWithin (n + m) s (Machine.andThen p f s).2 := by
  rcases andThen_cases p f s with ⟨a, _, h⟩ | h
  · rw [h]; exact hp.trans (hf a)
  · rw [h]; exact hp.mono (Nat.le_add_right _ _)

/-- A test before a procedure drives nothing. -/
theorem tested {p : Proc α} {f : α → Proc β} (hp : (p s).2 = s) (hf : ∀ a, ScansWithin n s (f a s).2) :
    ScansWithin n s (Machine.andThen p f s).2 := by
  rcases andThen_cases p f s with ⟨a, _, h⟩ | h
  · rw [h, hp]; exact hf a
  · rw [h, hp]; exact .refl s

/-- The answer on the command port is no scan. -/
theorem finish {p : Proc α} {f : α → Value} (hp : ScansWithin n s (p s).2) (h : finish p f s = .next t) :
    ScansWithin n s t := by
  obtain ⟨r, e⟩ := finish_next p f s
  obtain rfl := Host.Outcome.next.inj (e.symm.trans h)
  exact hp.thenQuiet rfl rfl

end ScansWithin

/-- A terminal response drives nothing, whatever loop is open (R136 to R138). -/
theorem Drives.receive_terminal {c : ResultCode} (hc : c ≠ .busy) (d : DbusData) :
    Drives (fun _ => 0) (Machine.receive c d) := by
  intro s
  rcases h : s.retry with _ | l
  · rw [Machine.receive, respond_bare h]; exact .refl s
  · rw [Machine.receive, respond_terminal h hc]; exact .quiet rfl rfl

theorem Drives.poll : Drives (fun q => 2 * loopScans q) pollProc :=
  tested requireSession_state fun _ s => returning (read _) (fun _ _ => .quiet rfl rfl) s

theorem Drives.acceptInfo (info : BitVec 64) : Drives (fun _ => 0) (Machine.acceptInfo info) := by
  intro s
  rcases acceptInfo_cases info s with ⟨k, e⟩ | ⟨_, _, e⟩ <;> rw [e] <;> exact .quiet rfl rfl

theorem Drives.setExamined : Drives (fun _ => 0) (update State.setExamined) := fun _ => .quiet rfl rfl

/-- `examine` past its tests: the DTM-info scan, one read, five words written and verified, and the jump (R193, R278). -/
theorem Drives.examineBody : Drives (fun q => 1 + 20 * loopScans q) examineBody := by
  have hread : Drives (fun q => 2 * loopScans q) fun s => readProc s.params.infoAddr s := fun s => read _ s
  have hwords : Drives (fun q => 5 * (3 * loopScans q)) fun s => Machine.stageWords (probeWords s.params.probe) s :=
    fun s => stageWords (probeWords s.params.probe) s
  have hverify : Drives (fun q => 2 * loopScans q) fun s => verifyWordProc 5#32 (resumeJumpWord s.params 5#32) s :=
    fun s => verifyWord _ _ s
  have h := andThen readDtmInfo fun _ => andThen hread fun info => andThen (acceptInfo info) fun _ => andThen hwords fun _ =>
    andThen (writeResumeJump 5#32 false) fun _ => returning hverify fun _ => setExamined
  exact h.mono fun _ => by omega

theorem Drives.examine : Drives (fun q => 1 + 20 * loopScans q) examineProc :=
  tested requireSession_state fun _ s => by
    split
    · exact .refl s
    · exact examineBody s

/-- The two writes of `halt` (R200). -/
theorem Drives.haltWrites : Drives (fun q => 2 * loopScans q)
    (Machine.andThen (fun s => writeWordProc 0#32 s.params.haltInsn false s) fun _ => writeResumeJumpProc 1#32 true) :=
  (andThen (fun s => writeWord _ _ _ s) fun _ => writeResumeJump _ _).mono fun _ => by omega

/-- `halt`: its hook's scans and its two writes (R200, R278). -/
theorem haltProc_scansWithin (s : State) :
    ScansWithin (hookScanBound .preHalt s + 2 * loopScans s.params) s (haltProc s).2 := by
  have hslots : (requireTwoSlots s).2 = s := by unfold requireTwoSlots; split <;> rfl
  have hhook := Drives.callHook .preHalt s
  refine .tested (requireSession_state s) fun _ => .tested hslots fun _ => hhook.andThen fun _ => ?_
  rw [← hhook.params]
  exact Drives.haltWrites _

/-- `device_reset`: its two hooks' scans, the second's script read where the first has ended (R203, R278). -/
theorem deviceResetProc_scansWithin (s : State) :
    ScansWithin (hookScanBound .onReset s + hookScanBound .postReset (callHook .onReset s.invalidateOnDeviceReset).2) s
      (deviceResetProc s).2 :=
  .tested (requireSession_state s) fun _ =>
    (ScansWithin.andThen (Drives.callHook .onReset s.invalidateOnDeviceReset) fun _ =>
      Drives.callHook .postReset _).afterQuiet rfl rfl

/-- No instruction drives more data scans than its bound, from any state and on any answer. -/
theorem exec_scansWithin {i : Instr} (h : exec i s = .next t) : ScansWithin (scanBound s i) s t := by
  cases i with
  | dbusNop a d | dbusRead a d | dbusWrite a d | dbusConditionalWrite a d | scan op a d =>
    exact .finish (Drives.scan _ a d s) h
  | rspSuccess a d | rspNoWrite a d | rspFailed a d => exact .finish (Drives.receive_terminal (by decide) d s) h
  | rspBusy a d => exact .finish (Drives.receive .busy d s) h
  | selectDtminfo => cases h; exact ⟨rfl, [.select .dtminfo], rfl, Nat.le_refl _⟩
  | selectDbus => cases h; exact ⟨rfl, [.select .dbus], rfl, Nat.le_refl _⟩
  | jumpWord imm | attach | detach => cases h; exact .quiet rfl rfl
  | readDtmInfo => exact .finish (Drives.readDtmInfo s) h
  | read a => exact .finish (Drives.read a s) h
  | write a v => exact .finish (Drives.write a v s) h
  | readWord index => exact .finish (Drives.readWord index s) h
  | writeWord index v f => exact .finish (Drives.writeWord index v f s) h
  | verifyWord index v => exact .finish (Drives.verifyWord index v s) h
  | writeResumeJump index f => exact .finish (Drives.writeResumeJump index f s) h
  | examine => exact .finish (Drives.examine s) h
  | poll => exact .finish (Drives.poll s) h
  | halt => exact .finish (haltProc_scansWithin s) h
  | assertReset | deassertReset => exact .finish (Drives.still (n := fun _ => 0) requireSession_state s) h
  | deviceReset => exact .finish (deviceResetProc_scansWithin s) h

/-- Settles O28: the bound of every instruction, read off the record. -/
theorem scansPerCommandAreBounded : Obligations.ScansPerCommandAreBounded :=
  fun _ _ _ h => (exec_scansWithin h).trace

end Sys2Proof.Machine
end

section
/-! SUPPORT. The Debug RAM commands (spec/43_debug_ram.md R171 to R180; 44_lifecycle.md R200): the index tests that come before
anything is driven, and the word reads that end normally, with the verdict of a comparison. -/

namespace Sys2Proof.Machine

variable {s t : State} {index expected got : Word}

/-! ### The index tests -/

/-- A word read of a slot that does not exist is refused in an open session (R171). -/
theorem readWordProc_illegal (ho : SessionOpen s) (h : s.scratchSize ≤ index) :
    readWordProc index s = (.refused (.indexRange index), s) := by
  rw [readWordProc, andThen_ok (requireSession_open ho), andThen_refused (requireIndex_illegal h)]

/-- The one index test of `verify_word` is that of its read (R176). -/
theorem verifyWordProc_illegal (ho : SessionOpen s) (h : s.scratchSize ≤ index) :
    verifyWordProc index expected s = (.refused (.indexRange index), s) :=
  andThen_refused (readWordProc_illegal ho h)

theorem requireTwoSlots_illegal (h : s.scratchSize < 2#32) :
    requireTwoSlots s = (.refused (.indexRange s.scratchSize), s) := by
  rw [requireTwoSlots, if_pos h, refuse_apply]

/-- `halt` without its two slots stops before its hook (R200). -/
theorem haltProc_illegal (ho : SessionOpen s) (h : s.scratchSize < 2#32) :
    haltProc s = (.refused (.indexRange s.scratchSize), s) := by
  rw [haltProc, andThen_ok (requireSession_open ho), andThen_refused (requireTwoSlots_illegal h)]

/-- Settles O37: the index is tested behind the session and before anything is driven, the two slots of `halt` before its hook. -/
theorem indexOutOfRangeRefused : Obligations.IndexOutOfRangeRefused := by
  refine fun s ho => ⟨fun i index value f hi h => ?_, fun h => finish_refused (haltProc_illegal ho h)⟩
  simp only [List.mem_cons, List.not_mem_nil, or_false] at hi
  rcases hi with rfl | rfl | rfl | rfl
  · exact finish_refused (readWordProc_illegal ho h)
  · exact finish_refused (writeWordProc_illegal ho h)
  · exact finish_refused (verifyWordProc_illegal ho h)
  · exact finish_refused (writeResumeJumpProc_illegal ho h)

/-! ### The word reads -/

/-- Settles O40: the closed form of the word read, its data cut to the 32 bits of a Debug RAM word. -/
theorem readWordReturnsLowBits : Obligations.ReadWordReturnsLowBits := by
  intro s index pre bs rest y ho hz hi hp hb hl hy hs
  rw [← lowWord_zeroExtend]
  exact finish_ok (f := fun w => .word w) (readWordProc_ok ho hz hi hp hb hl hy hs)

/-- The word read is the word expected: `verify_word` does nothing more (R176). -/
theorem verifyWordProc_match (h : readWordProc index s = (.ok got, t)) (he : got = expected) :
    verifyWordProc index expected s = (.ok true, t) := by
  rw [verifyWordProc, andThen_ok h, if_pos he, done_apply]

/-- The word read is another: the mismatch is logged and the valid bit cleared (R176). -/
theorem verifyWordProc_mismatch (h : readWordProc index s = (.ok got, t)) (he : got ≠ expected) :
    verifyWordProc index expected s =
      (.ok false, (t.appendLog (.verifyMismatch index expected got)).clearValid index.toNat) := by
  rw [verifyWordProc, andThen_ok h, if_neg he, andThen_ok (update_apply _ _), done_apply]

/-- Settles O41: the closed form of the word read, and the comparison in the state it leaves. -/
theorem verifyWordCompares : Obligations.VerifyWordCompares := by
  intro s index expected got pre bs rest y ho hz hi hp hb hl hy hs hgot
  have hread : readWordProc index s = (.ok got, s.readDone (slotAddress index) pre bs y rest) := by
    rw [hgot, ← lowWord_zeroExtend]
    exact readWordProc_ok ho hz hi hp hb hl hy hs
  exact ⟨fun he => finish_ok (f := fun b => .bool b) (verifyWordProc_match hread he),
    fun he => finish_ok (f := fun b => .bool b) (verifyWordProc_mismatch hread he)⟩

end Sys2Proof.Machine
end

section
/-! SUPPORT. The lifecycle commands (spec/44_lifecycle.md R193 to R203): the address and the transition of `poll`, the two writes of
`halt`, the commands that end at their entry tests, and a command stopped by a hook it calls (60_exceptions.md R235, R238). -/

namespace Sys2Proof.Machine

variable {s t : State}

/-! ### `poll` -/

/-- Settles O47: each row of the table, by evaluation; the old state stays a variable. -/
theorem transitionTable : Obligations.TransitionTable := fun _ => ⟨rfl, rfl, rfl, rfl⟩

theorem lt_lowRegLimit_iff {a : DbusAddr} : a < lowRegLimit ↔ a.toNat < 16 := BitVec.lt_def

/-- `poll` reads a cached address again only where that address carries the status bits (R196). -/
theorem pollAddress_cached {a : DbusAddr} (h : s.lastAddress = some a) :
    pollAddress s = if a.toNat < 16 ∨ a = s.params.ctrlAddr then a else 0#16 := by
  simp only [pollAddress, h, lt_lowRegLimit_iff]

theorem pollAddress_cold (h : s.lastAddress = none) : pollAddress s = 0#16 := by
  simp only [pollAddress, h]

/-- Settles O48: the cached address passes the test, fails it, or is not there. -/
theorem pollAddressChoice : Obligations.PollAddressChoice := fun _ =>
  ⟨fun _ ha hlow => (pollAddress_cached ha).trans (if_pos hlow),
    fun _ ha hlow => (pollAddress_cached ha).trans (if_neg hlow), pollAddress_cold⟩

/-! ### Commands that end at their entry tests -/

/-- Settles O52: the entry tests pass, and they are all of either command. -/
theorem resetPlaceholdersDoNothing : Obligations.ResetPlaceholdersDoNothing := fun _ ho =>
  ⟨finish_ok (f := fun _ => .unit) (requireSession_open ho), finish_ok (f := fun _ => .unit) (requireSession_open ho)⟩

/-- `examine` in an examined session is done at once (R194). -/
theorem examineProc_examined (ho : SessionOpen s) (hx : s.examined = true) : examineProc s = (.ok (), s) := by
  rw [examineProc, andThen_ok (requireSession_open ho), if_pos hx, done_apply]

/-- Settles O54: the test behind the entry tests ends the command. -/
theorem examineIsIdempotent : Obligations.ExamineIsIdempotent := fun _ ho hx => finish_ok (examineProc_examined ho hx)

/-! ### A hook that stops its command -/

/-- A hook call ends as the hook's own run stops (R235, R238). -/
theorem callHook_stop {n : HookName} {e : Stop} (h : s.params.hasHook n = true)
    (hr : runHook s.nextHookScript (s.enterHook n) = (e.res, t)) : callHook n s = (e.res, t) := by
  cases e with
  | err k => exact callHook_err h hr
  | refused k => exact callHook_refused h hr

/-- `halt` stops with its hook, and writes nothing (R200, R235). -/
theorem haltProc_hook_stop {e : Stop} (ho : SessionOpen s) (h : 2#32 ≤ s.scratchSize)
    (hk : callHook .preHalt s = (e.res, t)) : haltProc s = (e.res, t) := by
  rw [haltProc, andThen_ok (requireSession_open ho), andThen_ok (requireTwoSlots_legal h), andThen_stop hk]

/-- `device_reset` in an open session is its two hooks, behind the invalidation (R203). -/
theorem deviceResetProc_hooks (ho : SessionOpen s) :
    deviceResetProc s = andThen (callHook .onReset) (fun _ => callHook .postReset) s.invalidateOnDeviceReset := by
  rw [deviceResetProc, andThen_ok (requireSession_open ho), andThen_ok (update_apply _ _)]

/-- Settles O50: the hook stops the call, and the call each of its three callers. -/
theorem hookStopsItsCommand : Obligations.HookStopsItsCommand := by
  intro s s0 s1 i h ho hcaller hhook
  have hstops : ∀ e : Stop, runHook s0.nextHookScript (s0.enterHook h) = (e.res, s1) →
      exec i s = .next (s1.setResult e.result) := by
    intro e hrun
    rcases hcaller with ⟨rfl, rfl, rfl, hslots⟩ | ⟨rfl, rfl, rfl⟩ | ⟨rfl, rfl, hfirst⟩
    · exact finish_stop (haltProc_hook_stop ho hslots (callHook_stop hhook hrun))
    · exact finish_stop ((deviceResetProc_hooks ho).trans (andThen_stop (callHook_stop hhook hrun)))
    · have hhook0 : s0.params.hasHook .postReset = true := by rw [hfirst.frame.params]; exact hhook
      exact finish_stop ((deviceResetProc_hooks ho).trans
        ((andThen_ok (callHook_runs hfirst)).trans (callHook_stop hhook0 hrun)))
  exact ⟨fun k => hstops (.err k), fun k => hstops (.refused k)⟩

/-! ### The two writes of `halt` -/

/-- A bus whose geometry is known carries at least the addresses 0 and 1 (R22, R151). -/
theorem busReady_of_lt_two {a : DbusAddr} (ho : SessionOpen s) (hz : s.addressBits ≠ 0#8) (ha : a.toNat < 2) : BusReady s a := by
  have hn : s.addressBits.toNat ≠ 0 := fun h => hz (BitVec.eq_of_toNat_eq h)
  exact ⟨ho, hz, Nat.lt_of_lt_of_le ha (Nat.le_self_pow hn 2)⟩

/-- `write_resume_jump` with a legal offset, its loop ended normally (R178). -/
theorem writeResumeJumpProc_ok {index : Word} {f : Bool} {bs rest : List Answer} {y : Answer} (hr : SlotReady s index)
    (hj : jumpOffsetLegal (jumpOffset s.params index) = true) (hb : ∀ b ∈ bs, BusyAnswer s b)
    (hl : bs.length ≤ s.params.maxRetries) (hy : FinalAnswer s y) (hs : s.answers = bs ++ y :: rest) :
    writeResumeJumpProc index f s = (.ok (),
      ({ s.driven .write (slotAddress index) (wdata (resumeJumpWord s.params index) f) (bs ++ [y]) rest y.late with
        retry := none, log := s.log ++ softLog .write (slotAddress index) (answerCode s y) } : State).writeMirror
          index.toNat (resumeJumpWord s.params index) (decide (answerCode s y = some .success))) :=
  (writeResumeJumpProc_legal hr.1.1 hr.2 hj).trans (writeWordProc_ok hr.1 hr.2 hb hl hy hs)

/-- `halt`, its hook run and its first word written, is the second write (R200). -/
theorem haltProc_jump {u : State} (ho : SessionOpen s) (h : 2#32 ≤ s.scratchSize) (hr : HookRuns .preHalt s t)
    (hw : writeWordProc 0#32 t.params.haltInsn false t = (.ok (), u)) : haltProc s = writeResumeJumpProc 1#32 true u := by
  rw [haltProc_started ho h hr]
  exact andThen_ok hw

/-- Settles O51: the word write of `HALT_INSN` and then, in the state it leaves, that of the resume jump, each in closed form. -/
theorem haltStagesAndTriggers : Obligations.HaltStagesAndTriggers := by
  intro s s1 bs bs' rest x y ho hslots hhook ho1 hz hj hb hl hx hb' hl' hy hs
  have g := hhook.frame
  have hsize : 2#32 ≤ s1.scratchSize := by rw [g.scratchSize]; exact hslots
  rw [← show s1.params = s.params from g.params] at hj hl hl' ⊢
  have hhalt := writeWordProc_ok (index := 0#32) (value := s1.params.haltInsn) (f := false)
    (busReady_of_lt_two ho1 hz (by decide)) (by bv_omega) hb hl hx hs
  have hslot : SlotReady s1 1#32 := ⟨busReady_of_lt_two ho1 hz (by decide), by bv_omega⟩
  -- The first word write leaves session, geometry, size and parameters alone, so the second write's hypotheses are those on `s1`.
  exact finish_ok (p := haltProc) ((haltProc_jump ho hslots hhook hhalt).trans
    (writeResumeJumpProc_ok (bs := bs') (y := y) (rest := rest) hslot hj
      (fun b hm => busyAnswer_congr rfl rfl (hb' b hm)) hl' (hy.any _) rfl))

end Sys2Proof.Machine
end
